-- ==== Sys2Proof/Word.lean ====
section
/-! DEFINITION. The widths of the hS6Dv3 codec core: bytes, 32-bit registers and addresses, 64-bit codes
(spec/00_scope.md R9, R12; spec/10_state.md R40). -/

namespace Sys2Proof

/-- A byte of BUF, a byte value, a field of the command word (00_scope.md R12). -/
abbrev Byte := BitVec 8

/-- A register, a BUF address or a length (00_scope.md R9: register and address width 32 bits). -/
abbrev Word := BitVec 32

/-- An entry of the CODE table (10_state.md R40). -/
abbrev CodeWord := BitVec 64

end Sys2Proof
end

