-- ==== Sys2Proof/Syntax.lean ====
section
/-! DEFINITION. The sixteen commands of HS6C-1 (spec/30_encoding.md R81), one constructor per row of
spec/opcode_table.json. Operands are not in the word (R80): they are registers of the state; only CTR.FRAME
carries a field, its flags byte. -/

namespace Sys2Proof

/-- A command (30_encoding.md R81). -/
inductive Instr where
  /-- NOP, opcode 0x00 (R125). -/
  | nop
  /-- ERR.CLEAR, opcode 0x01 (R126). -/
  | errClear
  /-- SRESET, opcode 0x02 (R127). -/
  | sreset
  /-- CRC.INIT, opcode 0x10 (R131). -/
  | crcInit
  /-- CRC.UPDATE, opcode 0x11 (R132). -/
  | crcUpdate
  /-- BWT.FWD, opcode 0x20 (R141). -/
  | bwtFwd
  /-- BWT.INV, opcode 0x21 (R142). -/
  | bwtInv
  /-- HUF.COUNT, opcode 0x30 (R150). -/
  | hufCount
  /-- HUF.BUILD, opcode 0x31 (R151). -/
  | hufBuild
  /-- HUF.WTABLE, opcode 0x32 (R152). -/
  | hufWtable
  /-- HUF.RTABLE, opcode 0x33 (R153). -/
  | hufRtable
  /-- BIT.PACK, opcode 0x40 (R170). -/
  | bitPack
  /-- BIT.UNPACK, opcode 0x41 (R171). -/
  | bitUnpack
  /-- CTR.FRAME, opcode 0x50, with the container flags byte of bits 15:8 (R182). -/
  | ctrFrame (flags : Byte)
  /-- CTR.UNFRAME, opcode 0x51 (R184). -/
  | ctrUnframe
  /-- CTR.REPL, opcode 0x52 (R186). -/
  | ctrRepl
deriving DecidableEq, Repr

end Sys2Proof
end

