-- ==== Sys2Proof/WellFormed.lean ====
section
/-! DEFINITION. The well-formedness checks of the spec that need no state: a command word (spec/30_encoding.md R83),
a container flags byte (R94) and a host register access (spec/10_state.md R43). Every value of `Instr` is
well-formed by its type: `opt` has 8 bits and every value of it decodes for CTR.FRAME (R84). -/

namespace Sys2Proof

/-- The opcode column of 30_encoding.md R81. -/
def opcodeList : List Byte :=
  [0x00, 0x01, 0x02, 0x10, 0x11, 0x20, 0x21, 0x30, 0x31, 0x32, 0x33, 0x40, 0x41, 0x50, 0x51, 0x52]

/-- The opcode field is one of R81 (30_encoding.md R83, first line). -/
def wordOpcodeOk (w : Word) : Bool := opcodeList.contains (w.extractLsb' 0 8)

/-- The reserved field is 0 (30_encoding.md R83, second line). -/
def wordReservedOk (w : Word) : Bool := w.extractLsb' 16 16 == 0

/-- The option byte is 0 but on CTR.FRAME (30_encoding.md R83, third line; R84). -/
def wordOptionOk (w : Word) : Bool := w.extractLsb' 8 8 == 0 || w.extractLsb' 0 8 == 0x50

/-- A legal command word (30_encoding.md R83). -/
def wordWellFormed (w : Word) : Bool := wordOpcodeOk w && wordReservedOk w && wordOptionOk w

/-- The reserved bits 7:3 of a container flags byte are 0 (30_encoding.md R94). -/
def flagsReservedOk (f : Byte) : Bool := f.extractLsb' 3 5 == 0

/-- A container flags byte does not have R and D both set (30_encoding.md R94). -/
def flagsCombinationOk (f : Byte) : Bool := !(f.getLsbD 2 && f.getLsbD 1)

/-- A host register access is an aligned 32-bit word (10_state.md R43); the width is in bytes. -/
def regAccessAligned (off width : Nat) : Bool := width == 4 && off % 4 == 0

/-- A host register access lies in the window of 0x1400 bytes (10_state.md R39, 20_memory.md R60). -/
def regAccessInWindow (off : Nat) : Bool := decide (off < 0x1400)

end Sys2Proof
end

