-- ==== Sys2Proof/Decode.lean ====
section
/-! DEFINITION. The command word (spec/30_encoding.md R80 to R84): its fields, the opcode map, the decoder, total on
every 32-bit word and rejecting by name, and the encoder. -/

namespace Sys2Proof

/-- `w[7:0]` (30_encoding.md R80). -/
def opcodeField (w : Word) : Byte := w.extractLsb' 0 8

/-- `w[15:8]` (30_encoding.md R80). -/
def optField (w : Word) : Byte := w.extractLsb' 8 8

/-- `w[31:16]` (30_encoding.md R80). -/
def reservedField (w : Word) : BitVec 16 := w.extractLsb' 16 16

/-- Why a word is no command (30_encoding.md R83). -/
inductive DecodeError where
  /-- The opcode is not in the table: ILLEGAL_COMMAND detail 1. -/
  | reservedOpcode
  /-- A bit that must be 0 is set: ILLEGAL_COMMAND detail 2. -/
  | reservedBits
deriving DecidableEq, Repr

/-- The opcode map (30_encoding.md R81), as the command each opcode names for a given option byte. -/
def opcodeMap : List (Byte × (Byte → Instr)) :=
  [(0x00, fun _ => .nop), (0x01, fun _ => .errClear), (0x02, fun _ => .sreset),
   (0x10, fun _ => .crcInit), (0x11, fun _ => .crcUpdate),
   (0x20, fun _ => .bwtFwd), (0x21, fun _ => .bwtInv),
   (0x30, fun _ => .hufCount), (0x31, fun _ => .hufBuild), (0x32, fun _ => .hufWtable), (0x33, fun _ => .hufRtable),
   (0x40, fun _ => .bitPack), (0x41, fun _ => .bitUnpack),
   (0x50, fun f => .ctrFrame f), (0x51, fun _ => .ctrUnframe), (0x52, fun _ => .ctrRepl)]

/-- Decoding of an accepted word, in the order of 30_encoding.md R83. -/
def decode (w : Word) : Except DecodeError Instr :=
  match opcodeMap.lookup (opcodeField w) with
  | none => .error .reservedOpcode
  | some command =>
    if reservedField w ≠ 0 then .error .reservedBits
    else if optField w ≠ 0 ∧ opcodeField w ≠ 0x50 then .error .reservedBits
    else .ok (command (optField w))

/-- The opcode of a command (30_encoding.md R81). -/
def opcode : Instr → Byte
  | .nop => 0x00
  | .errClear => 0x01
  | .sreset => 0x02
  | .crcInit => 0x10
  | .crcUpdate => 0x11
  | .bwtFwd => 0x20
  | .bwtInv => 0x21
  | .hufCount => 0x30
  | .hufBuild => 0x31
  | .hufWtable => 0x32
  | .hufRtable => 0x33
  | .bitPack => 0x40
  | .bitUnpack => 0x41
  | .ctrFrame _ => 0x50
  | .ctrUnframe => 0x51
  | .ctrRepl => 0x52

/-- The option byte of a command (30_encoding.md R81, column `opt`). -/
def optByte : Instr → Byte
  | .ctrFrame f => f
  | .nop | .errClear | .sreset | .crcInit | .crcUpdate | .bwtFwd | .bwtInv | .hufCount | .hufBuild | .hufWtable
  | .hufRtable | .bitPack | .bitUnpack | .ctrUnframe | .ctrRepl => 0

/-- The command word: reserved field 0, option byte, opcode (30_encoding.md R80, R85 `GO`). -/
def encode (i : Instr) : Word := 0#16 ++ optByte i ++ opcode i

/-- The command of an opcode-table row whose `nbits` bits are `w`: the one 32-bit word of R80, given to `decode`. -/
def decodeTableWord (nbits w : Nat) : Option Instr := (decode (BitVec.ofNat 32 (w % 2 ^ nbits))).toOption

end Sys2Proof
end

