-- ==== Sys2Proof/Config.lean ====
section
/-! DEFINITION. The implementation parameters (spec/00_scope.md R9, spec/93_implementation_defined.md U15) and the
free values the spec leaves open (U1, U2, U3). An opaque constant here has no body: no proof can learn its value. -/

namespace Sys2Proof

/-- The OPEN parameters of one instance (00_scope.md R9). `bufLast` is the highest BUF address, `BUF_BYTES - 1`,
so that every value of the field gives a size the rule allows: 1 to 2^32. -/
structure Params where
  bufLast : Word
  maxBlock : Word
  magic : Word
  hwId : Word
deriving DecidableEq, Repr

/-- `BUF_BYTES` (00_scope.md R9). -/
def Params.bufBytes (p : Params) : Nat := p.bufLast.toNat + 1

/-- `MAX_CODE_LEN` (00_scope.md R9). -/
def maxCodeLen : Nat := 64

/-- The parameter `BUF_BYTES`, less one, of the instance that `State.reset` describes: OPEN (log 2). -/
opaque Config.bufLast : Word

/-- The parameter `MAX_BLOCK` of that instance: OPEN (log 2). -/
opaque Config.maxBlock : Word

/-- The parameter `MAGIC` of that instance: OPEN (log 2). -/
opaque Config.magic : Word

/-- The parameter `HW_ID` of that instance: OPEN (log 2). -/
opaque Config.hwId : Word

/-- The identity string `VENDOR`: OPEN, shown by no register (00_scope.md R2; log 2). -/
opaque Config.vendor : String

/-- The identity string `PART_ID`: OPEN, shown by no register (00_scope.md R2; log 2). -/
opaque Config.partId : String

/-- What the byte of BUF at an address holds after the reset named by the first argument, as long as nothing has
written it: any value (70_reset_and_hazards.md R231, U1; log 3). -/
opaque Config.powerOnByte : Nat → Nat → Byte

/-- A byte whose value the spec leaves unspecified, a fresh one for every argument (60_exceptions.md R211, U3; log 4). -/
opaque Config.freeByte : Nat → Byte

/-- A register value the spec leaves unspecified, a fresh one for every argument (10_state.md R26, U2; logs 5, 11). -/
opaque Config.freeWord : Nat → Word

/-- A status bit the spec leaves unspecified, a fresh one for every argument (log 8). -/
opaque Config.freeBit : Nat → Bool

end Sys2Proof
end

