-- ==== Sys2Proof/Machine/State.lean ====
section
/-! DEFINITION. The state of one hS6Dv3 codec core (spec/10_state.md R20), the accesses a host makes, the errors a
command can end with, and the reasons a step can stop. Everything is plain data. -/

namespace Sys2Proof.Machine

/-- The registers of the register map (10_state.md R39), by name. -/
inductive Reg where
  | id | cmd | status | errcode
  | srcAddr | srcLen | dstAddr | dstCap | aux
  | resLen | resAux | resAddr | resFlags | resPi
  | crcState | crcValue | nsym | maxlen
  /-- FREQ[v] (R41). -/
  | freq (v : Byte)
  /-- LEN[v] (R42). -/
  | len (v : Byte)
  /-- CODE[v][31:0] (R42). -/
  | codeLo (v : Byte)
  /-- CODE[v][63:32] (R42). -/
  | codeHi (v : Byte)
deriving DecidableEq, Repr

/-- What the world outside the engine does next (00_scope.md R7; logs 1, 14, 15). -/
inductive HostEvent where
  /-- The host writes `data` to the register window at byte offset `off`, `width` bytes wide (10_state.md R43). A write
  to CMD issues a command that completes before anything else happens (40_control.md R123). -/
  | regWrite (off width : Nat) (data : Word)
  /-- The host reads the register window at byte offset `off`, `width` bytes wide (10_state.md R43). -/
  | regRead (off width : Nat)
  /-- The host writes one byte of BUF (20_memory.md R60, R71). -/
  | bufWrite (addr : Word) (b : Byte)
  /-- The host reads one byte of BUF (20_memory.md R60, R71). -/
  | bufRead (addr : Word)
  /-- The host writes `w` to CMD, and BUSY stays 1 for a span in which the events that follow take place, up to
  `complete` (10_state.md R26, 70_reset_and_hazards.md R241, R243). -/
  | issueSpan (w : Word)
  /-- The engine completes the running command, if there is one (40_control.md R124, 60_exceptions.md R210). -/
  | complete
  /-- The platform's reset input (70_reset_and_hazards.md R230). -/
  | hwReset
deriving DecidableEq, Repr

/-- The bits of STATUS (10_state.md R24). Bits 31:5 are reserved, read 0, and have no storage. -/
structure Status where
  busy : Bool
  done : Bool
  err : Bool
  warn : Bool
  wbusy : Bool
deriving DecidableEq, Repr

/-- A 256-entry table file, one entry per byte value (10_state.md R40). -/
structure Table (α : Type) where
  entries : List α
  size_eq : entries.length = 256
deriving DecidableEq, Repr

/-- The table with the same value in every entry. -/
def Table.fill {α : Type} (x : α) : Table α := ⟨List.replicate 256 x, List.length_replicate⟩

/-- BUF (10_state.md R45): the bytes written since the last hardware reset, by address. An address that is not listed
has not been written and so has no value of its own (70_reset_and_hazards.md R231; log 3). -/
abbrev Memory := List Host.Cell

/-- The canonical form of BUF: addresses strictly rising. An unlisted address holds no value, so no entry can equal
what an unlisted address holds. -/
abbrev Memory.wf (m : Memory) : Prop := m.Pairwise (fun c d => c.1 < d.1)

/-- The error classes (60_exceptions.md R201). -/
inductive ErrClass where
  | inputTooLarge | invalidFormat | integrity | corruptTransform | invalidCodeTable | corruptPayload
  | illegalCommand | bounds | overlap | dstOverflow | uncodedSymbol | illegalOperand | codeTooLong
deriving DecidableEq, Repr

/-- An error: its class and its detail code (60_exceptions.md R200, R201). -/
structure CmdError where
  cls : ErrClass
  detail : Byte
deriving DecidableEq, Repr

/-- The state of the machine (10_state.md R20), with the implementation parameters (00_scope.md R9) and the model's own
fields: `host`, `hostData`, `bufEpoch`, `fresh`, `spanDrop`. -/
structure State where
  /-- The OPEN parameters; no step changes them (log 2). -/
  params : Params
  /-- CMD, the last accepted word (R23). -/
  cmd : Word
  /-- STATUS (R24). -/
  status : Status
  /-- ERRCODE (R30). -/
  errcode : Word
  /-- SRC_ADDR (R31). -/
  srcAddr : Word
  /-- SRC_LEN (R31). -/
  srcLen : Word
  /-- DST_ADDR (R32). -/
  dstAddr : Word
  /-- DST_CAP (R32). -/
  dstCap : Word
  /-- AUX (R33). -/
  aux : Word
  /-- RES_LEN (R34). -/
  resLen : Word
  /-- RES_AUX (R34). -/
  resAux : Word
  /-- RES_ADDR (R35). -/
  resAddr : Word
  /-- RES_FLAGS (R35). -/
  resFlags : Word
  /-- RES_PI (R35). -/
  resPi : Word
  /-- CRC_STATE (R36); CRC_VALUE (R37) is a view of it. -/
  crcState : Word
  /-- NSYM (R38). -/
  nsym : Word
  /-- MAXLEN (R38). -/
  maxlen : Word
  /-- The FREQ table (R40, R41). -/
  freq : Table Word
  /-- The LEN table, bits 7:0 of each entry (R40, R42). -/
  len : Table Byte
  /-- The CODE table (R40, R42). -/
  code : Table CodeWord
  /-- BUF (R45). -/
  buf : Memory
  /-- The model's own: which reset the unwritten bytes of BUF date from (log 3). -/
  bufEpoch : Nat
  /-- The model's own: the next free value not used yet (log 13). -/
  fresh : Nat
  /-- The model's own: a register write was dropped since the running command was accepted (log 8). -/
  spanDrop : Bool
  /-- The model's own: the value the last host read was given (log 12). -/
  hostData : Word
  /-- The model's own: what the world outside the engine does, in order (log 1). -/
  host : List HostEvent
deriving DecidableEq, Repr

/-- Why the machine stops. -/
inductive Fault where
  /-- The host accessed a byte of the source or destination range of the running command, the "host fault" of
  70_reset_and_hazards.md R241. Raised by the service of a BUF access while BUSY is 1. Safe: no state follows (log 6). -/
  | hostRace
  /-- The host accessed a BUF address of `BUF_BYTES` or more, which does not exist (20_memory.md R60). Raised by the
  service of a BUF access. Safe: no state follows (log 10). -/
  | bufAddress
deriving DecidableEq, Repr

/-- Why the machine has no meaning for what it is asked to do. -/
inductive Refusal where
  /-- A command that has no meaning yet, by its mnemonic. Raised by `exec`. Safe. No arm of this model raises it. -/
  | notModelled (mnemonic : String)
  /-- A register access that is not an aligned 32-bit word: "the model refuses it (it has no meaning)" (10_state.md R43).
  Raised by the service of a register access. Safe (log 9). -/
  | registerAccess
  /-- A register access outside the window of 0x1400 bytes, which is no access to this block (20_memory.md R60, R61).
  Raised by the service of a register access. Safe (log 10). -/
  | outsideWindow
deriving DecidableEq, Repr

/-- The machine right after a hardware reset (70_reset_and_hazards.md R230, R231), with the parameters of an unknown
instance and nothing for the host to do. -/
def State.reset : State where
  params := ⟨Config.bufLast, Config.maxBlock, Config.magic, Config.hwId⟩
  cmd := 0
  status := ⟨false, false, false, false, false⟩
  errcode := 0
  srcAddr := 0
  srcLen := 0
  dstAddr := 0
  dstCap := 0
  aux := 0
  resLen := 0
  resAux := 0
  resAddr := 0
  resFlags := 0
  resPi := 0
  crcState := 0xFFFFFFFF
  nsym := 0
  maxlen := 0
  freq := Table.fill 0
  len := Table.fill 0
  code := Table.fill 0
  buf := []
  bufEpoch := 0
  fresh := 1
  spanDrop := false
  hostData := 0
  host := []

end Sys2Proof.Machine
end

