-- ==== Sys2Proof/Machine/Flags.lean ====
section
/-! DEFINITION. STATUS and ERRCODE: what acceptance, success and error do to the status bits, how the two registers are
laid out, the codes of the error classes, and the size-mismatch warning (spec/10_state.md R24 to R30,
spec/40_control.md R121, R124, spec/60_exceptions.md R201, R210). -/

namespace Sys2Proof.Machine

/-- STATUS at acceptance: BUSY set, DONE and WARN cleared (40_control.md R121). -/
def Status.accepted (b : Status) : Status := { b with busy := true, done := false, warn := false }

/-- STATUS at successful completion (40_control.md R124). -/
def Status.succeeded (b : Status) : Status := { b with busy := false, done := true }

/-- STATUS at completion by error; WBUSY keeps its value (60_exceptions.md R210). -/
def Status.failed (b : Status) : Status := { b with err := true, done := false, warn := false, busy := false }

/-- STATUS as the host sees it: while BUSY is 1, DONE and ERR read 0 (10_state.md R26). -/
def Status.shown (b : Status) : Status := if b.busy then { b with done := false, err := false } else b

/-- The bits of STATUS in their places; bits 31:5 read 0 (10_state.md R24). -/
def Status.toWord (b : Status) : Word :=
  0#27 ++ BitVec.ofBool b.wbusy ++ BitVec.ofBool b.warn ++ BitVec.ofBool b.err ++ BitVec.ofBool b.done
    ++ BitVec.ofBool b.busy

/-- The class codes (60_exceptions.md R201). -/
def ErrClass.code : ErrClass → Byte
  | .inputTooLarge => 1
  | .invalidFormat => 2
  | .integrity => 3
  | .corruptTransform => 4
  | .invalidCodeTable => 5
  | .corruptPayload => 6
  | .illegalCommand => 7
  | .bounds => 8
  | .overlap => 9
  | .dstOverflow => 10
  | .uncodedSymbol => 11
  | .illegalOperand => 12
  | .codeTooLong => 13

/-- ERRCODE for an error of the command with opcode `opc`: class in 7:0, detail in 15:8, opcode in 23:16, 0 above
(10_state.md R30, 60_exceptions.md R210). -/
def errcodeWord (opc : Byte) (e : CmdError) : Word := 0#8 ++ opc ++ e.detail ++ e.cls.code

/-- The size-mismatch warning of a RAW container: payload length against `originalSize` (10_state.md R25,
45_container.md R184). -/
def sizeMismatch (payloadLen originalSize : Nat) : Bool := payloadLen != originalSize

end Sys2Proof.Machine
end

