-- ==== Sys2Proof/Machine/Ops.lean ====
section
/-! DEFINITION. The named operations over BUF, the table files and the registers that every command uses: reading and
writing bytes (spec/00_scope.md R14), big-endian fields (spec/20_memory.md R67), table access, acceptance
(spec/40_control.md R121), successful completion (R124), completion by error, which is this block's only trap
(spec/60_exceptions.md R210), and the reset of the registers (spec/70_reset_and_hazards.md R230). -/

namespace Sys2Proof.Machine

/-- What a command or a host access ends in. -/
abbrev Result := Host.Outcome State Fault Refusal

/-! ### BUF -/

/-- The byte written at an address since the last reset, if any. -/
def Memory.lookup : Memory → Nat → Option Byte
  | [], _ => none
  | (b, v) :: m, a => if a = b then some v else Memory.lookup m a

/-- Write one byte, keeping the addresses strictly rising. -/
def Memory.write : Memory → Nat → Byte → Memory
  | [], a, v => [(a, v)]
  | (b, u) :: m, a, v =>
    if a < b then (a, v) :: (b, u) :: m
    else if a = b then (a, v) :: m
    else (b, u) :: Memory.write m a v

/-- Write a sequence of bytes from an address on. -/
def Memory.writeBytes : Memory → Nat → List Byte → Memory
  | m, _, [] => m
  | m, a, v :: vs => Memory.writeBytes (Memory.write m a v) (a + 1) vs

/-- `BUF[a]`: the byte last written there, or else the free value the last reset left there (10_state.md R45,
70_reset_and_hazards.md R231; log 3). -/
def readBuf (s : State) (a : Nat) : Byte :=
  match s.buf.lookup a with
  | some v => v
  | none => Config.powerOnByte s.bufEpoch a

/-- `MemRead(a, n)` (00_scope.md R14). -/
def memRead (s : State) (a n : Nat) : List Byte := (List.range n).map fun k => readBuf s (a + k)

/-- `MemWrite(a, len(v), v)` (00_scope.md R14). -/
def memWrite (s : State) (a : Nat) (v : List Byte) : State := { s with buf := s.buf.writeBytes a v }

/-- The source bytes of a command: `MemRead(x[SRC_ADDR], x[SRC_LEN])`. -/
def srcBytes (s : State) : List Byte := memRead s s.srcAddr.toNat s.srcLen.toNat

/-- Write a command's output at `x[DST_ADDR]`. -/
def dstWrite (s : State) (v : List Byte) : State := memWrite s s.dstAddr.toNat v

/-- Leave `n` bytes of BUF from `a` on with unspecified values, each a free value not used before
(60_exceptions.md R211; log 4). -/
def memScramble (s : State) (a n : Nat) : State :=
  { memWrite s a ((List.range n).map fun k => Config.freeByte (s.fresh + k)) with fresh := s.fresh + n }

/-! ### Big-endian fields (20_memory.md R67, 00_scope.md R13) -/

/-- The 4 bytes of a word, most significant first (`to_be32`). -/
def toBe32 (v : Word) : List Byte := [v.extractLsb' 24 8, v.extractLsb' 16 8, v.extractLsb' 8 8, v.extractLsb' 0 8]

/-- The big-endian word at offset `o` of a byte sequence (`be32`). -/
def be32At (B : List Byte) (o : Nat) : Word := B.getD o 0 ++ B.getD (o + 1) 0 ++ B.getD (o + 2) 0 ++ B.getD (o + 3) 0

/-! ### Table files (10_state.md R40) -/

/-- The byte values 0 to 255 in ascending order. -/
def allBytes : List Byte := (List.range 256).map fun k => BitVec.ofNat 8 k

/-- The entry for byte value `v`. -/
def Table.get {α : Type} (t : Table α) (v : Byte) : α :=
  t.entries[v.toNat]'(by rw [t.size_eq]; exact v.isLt)

/-- The table whose entry for `v` is `f v`. -/
def Table.ofFn {α : Type} (f : Byte → α) : Table α := ⟨allBytes.map f, by simp [allBytes]⟩

/-- Replace the entry for byte value `v`. -/
def Table.set {α : Type} (t : Table α) (v : Byte) (x : α) : Table α :=
  ⟨t.entries.set v.toNat x, by rw [List.length_set, t.size_eq]⟩

/-- The entries with their byte values, in ascending order of the byte value. -/
def Table.pairs {α : Type} (t : Table α) : List (Byte × α) := allBytes.zip t.entries

/-- The byte values whose entry is not 0, in ascending order. -/
def Table.support {n : Nat} (t : Table (BitVec n)) : List Byte := (t.pairs.filter fun p => p.2 ≠ 0).map Prod.fst

/-- The byte values with a code, `LEN[v] > 0`, in ascending order. -/
def coded (lens : Table Byte) : List Byte := lens.support

/-! ### Acceptance, completion, error, reset -/

/-- Acceptance of the command word `w` (40_control.md R121, first two lines). -/
def accept (w : Word) (s : State) : State := { s with cmd := w, status := s.status.accepted, spanDrop := false }

/-- `result(len, aux)`: successful completion (40_control.md R124). -/
def result (len aux : Word) (s : State) : State :=
  { s with resLen := len, resAux := aux, status := s.status.succeeded }

/-- `raise Error(CLASS, DETAIL)` of the command with opcode `opc`: completion by error, the block's trap entry
(60_exceptions.md R210). -/
def raiseError (opc : Byte) (e : CmdError) (s : State) : State :=
  { s with
    resLen := 0, resAux := 0, resAddr := 0, resFlags := 0, resPi := 0
    errcode := errcodeWord opc e
    status := s.status.failed }

/-- The "return from trap": ERR, WBUSY and ERRCODE are cleared and nothing is restored (40_control.md R126,
60_exceptions.md R213). -/
def clearError (s : State) : State :=
  { s with errcode := 0, status := { s.status with err := false, wbusy := false } }

/-- Every register and table entry of 10_state.md R39 at its reset value (70_reset_and_hazards.md R230,
40_control.md R127). ID is the parameter HW_ID and keeps it. -/
def resetRegisters (s : State) : State :=
  { s with
    cmd := 0, status := ⟨false, false, false, false, false⟩, errcode := 0
    srcAddr := 0, srcLen := 0, dstAddr := 0, dstCap := 0, aux := 0
    resLen := 0, resAux := 0, resAddr := 0, resFlags := 0, resPi := 0
    crcState := 0xFFFFFFFF, nsym := 0, maxlen := 0
    freq := Table.fill 0, len := Table.fill 0, code := Table.fill 0
    spanDrop := false }

/-- A hardware reset: the registers at their reset values and every byte of BUF unspecified again
(70_reset_and_hazards.md R230, R231; log 15). -/
def hardwareReset (s : State) : State :=
  { resetRegisters s with buf := [], bufEpoch := s.fresh, fresh := s.fresh + 1 }

end Sys2Proof.Machine
end

