-- ==== Sys2Proof/Machine/Operands.lean ====
section
/-! DEFINITION. The operands of a command (spec/30_encoding.md R81) and the checks on them: bounds (spec/20_memory.md
R63), overlap (R64), the size ceiling (spec/60_exceptions.md R202), the capacity (R65), and the first check that fails
(spec/00_scope.md R15, spec/60_exceptions.md R203). -/

namespace Sys2Proof.Machine

/-- `InBounds(a, n)`, computed exactly (20_memory.md R63). -/
def inBounds (p : Params) (a n : Word) : Bool := decide (n.toNat = 0) || decide (a.toNat + n.toNat ≤ p.bufBytes)

/-- `Overlap((a, n), (d, c))` (20_memory.md R64). -/
def overlaps (a n d c : Word) : Bool :=
  decide (0 < n.toNat) && decide (0 < c.toNat) && decide (a.toNat < d.toNat + c.toNat)
    && decide (d.toNat < a.toNat + n.toNat)

/-- The address lies in the range `(a, n)`. -/
def inRange (a n : Word) (addr : Nat) : Bool := decide (a.toNat ≤ addr) && decide (addr < a.toNat + n.toNat)

/-- A check of a command's rule: whether it FAILS, and the error it then raises. -/
abbrev Check := Bool × CmdError

/-- The first failing check decides the error (00_scope.md R15, 60_exceptions.md R200). -/
def firstError : List Check → Option CmdError
  | [] => none
  | (fails, e) :: cs => if fails then some e else firstError cs

/-- A length exceeds `MAX_BLOCK` (00_scope.md R10). -/
def exceedsBlock (s : State) (v : Word) : Bool := decide (s.params.maxBlock.toNat < v.toNat)

/-- INPUT_TOO_LARGE 1: SRC_LEN exceeds `MAX_BLOCK` (60_exceptions.md R201, R202). -/
def checkSrcSize (s : State) : Check := (exceedsBlock s s.srcLen, ⟨.inputTooLarge, 1⟩)

/-- INPUT_TOO_LARGE 2: AUX exceeds `MAX_BLOCK` (60_exceptions.md R201, R202). -/
def checkAuxSize (s : State) : Check := (exceedsBlock s s.aux, ⟨.inputTooLarge, 2⟩)

/-- BOUNDS 1: the source range leaves BUF (20_memory.md R63). -/
def checkSrc (s : State) : Check := (!inBounds s.params s.srcAddr s.srcLen, ⟨.bounds, 1⟩)

/-- BOUNDS 2: the destination range leaves BUF (20_memory.md R63). -/
def checkDst (s : State) : Check := (!inBounds s.params s.dstAddr s.dstCap, ⟨.bounds, 2⟩)

/-- OVERLAP: the source and destination ranges share a byte (20_memory.md R64). -/
def checkOverlap (s : State) : Check := (overlaps s.srcAddr s.srcLen s.dstAddr s.dstCap, ⟨.overlap, 0⟩)

/-- DST_OVERFLOW: the output, `need` bytes, does not fit in DST_CAP (20_memory.md R65). -/
def checkCap (s : State) (need : Nat) : Check := (decide (s.dstCap.toNat < need), ⟨.dstOverflow, 0⟩)

/-- The checks of the two ranges, in the order every two-range command makes them (60_exceptions.md R203). -/
def checkRanges (s : State) : List Check := [checkSrc s, checkDst s, checkOverlap s]

/-- The command has a source range (30_encoding.md R81, "operands read"). -/
def usesSrc : Instr → Bool
  | .crcUpdate | .bwtFwd | .bwtInv | .hufCount | .hufRtable | .bitPack | .bitUnpack | .ctrFrame _ | .ctrUnframe
  | .ctrRepl => true
  | .nop | .errClear | .sreset | .crcInit | .hufBuild | .hufWtable => false

/-- The command has a destination range (30_encoding.md R81, "operands read"). -/
def usesDst : Instr → Bool
  | .bwtFwd | .bwtInv | .hufWtable | .bitPack | .bitUnpack | .ctrFrame _ | .ctrRepl => true
  | .nop | .errClear | .sreset | .crcInit | .crcUpdate | .hufCount | .hufBuild | .hufRtable | .ctrUnframe => false

/-- The address is a byte of the source or destination range of the running command, whose word is in CMD
(70_reset_and_hazards.md R240 (b); log 6). -/
def inFlight (s : State) (addr : Nat) : Bool :=
  match decode s.cmd with
  | .error _ => false
  | .ok i => usesSrc i && inRange s.srcAddr s.srcLen addr || usesDst i && inRange s.dstAddr s.dstCap addr

end Sys2Proof.Machine
end

