-- ==== Sys2Proof/Machine/BitPack.lean ====
section
/-! DEFINITION. The bit-packing datapath (spec/44_bitpack.md): the bitstream (spec/30_encoding.md R99, spec/20_memory.md
R68), BIT.PACK (R170), the decode walk (R172) and BIT.UNPACK (R171). -/

namespace Sys2Proof.Machine

/-- The code of a byte value as bits, most significant first (R170). -/
def codeBits (s : State) (v : Byte) : List Bool :=
  let l := (s.len.get v).toNat
  (List.range l).map fun i => (s.code.get v).getLsbD (l - 1 - i)

/-- Bytes needed for a number of bits. -/
def bytesFor (nbits : Nat) : Nat := (nbits + 7) / 8

/-- Packing of a block in block order, onto the bits packed so far, for a destination of `cap` bytes: UNCODED_SYMBOL or
DST_OVERFLOW, whichever comes first (R170). -/
def packBits (s : State) (cap : Nat) : List Byte → List Bool → Except CmdError (List Bool)
  | [], bits => .ok bits
  | v :: S, bits =>
    if s.len.get v = 0 then .error ⟨.uncodedSymbol, v⟩
    else
      let bits' := bits ++ codeBits s v
      if cap < bytesFor bits'.length then .error ⟨.dstOverflow, 0⟩ else packBits s cap S bits'

/-- The number that a bit sequence writes, its first bit the most significant. -/
def bitsToNat (bits : List Bool) : Nat := bits.foldl (fun n b => 2 * n + b.toNat) 0

/-- Byte `j` of a bit sequence, its first bit in bit 7 (R170, 20_memory.md R68). -/
def byteAt (bits : List Bool) (j : Nat) : Byte := BitVec.ofNat 8 (bitsToNat ((bits.drop (8 * j)).take 8))

/-- The pad bits after a number of packed bits, 0 to 7 (R170). -/
def padCount (nbits : Nat) : Nat := 8 * bytesFor nbits - nbits

/-- The bytes of a bit sequence, padded with zero bits to a byte boundary (R170). -/
def packBytes (bits : List Bool) : List Byte :=
  (List.range (bytesFor bits.length)).map (byteAt (bits ++ List.replicate (padCount bits.length) false))

/-- BIT.PACK (R170). After UNCODED_SYMBOL or DST_OVERFLOW the destination range is unspecified (60_exceptions.md R211). -/
def execBitPack (s : State) : Result :=
  match firstError (checkSrcSize s :: checkRanges s) with
  | some e => .next (raiseError (opcode .bitPack) e s)
  | none =>
    match packBits s s.dstCap.toNat (srcBytes s) [] with
    | .error e => .next (raiseError (opcode .bitPack) e (memScramble s s.dstAddr.toNat s.dstCap.toNat))
    | .ok bits =>
      .next (result (BitVec.ofNat 32 (bytesFor bits.length)) (BitVec.ofNat 32 (padCount bits.length))
        (dstWrite s (packBytes bits)))

/-- The bits of a byte sequence: stream index j is bit `7 - (j mod 8)` of byte `j div 8` (20_memory.md R68). -/
def streamBits (B : List Byte) : List Bool := B.flatMap fun b => (List.range 8).map fun i => b.getLsbD (7 - i)

/-- The coded byte values with their lengths and codes. -/
def codeList (s : State) : List (Byte × Nat × Nat) :=
  (coded s.len).map fun v => (v, (s.len.get v).toNat, (s.code.get v).toNat)

/-- The byte value whose code is the `l` bits of value `c`, if any (R172). -/
def codeLookup (codes : List (Byte × Nat × Nat)) (l c : Nat) : Option Byte :=
  (codes.find? fun e => e.2.1 == l && e.2.2 == c).map Prod.fst

/-- `DecodeOne` (R172) on the bits still to come, with the `l` bits of value `c` read so far: the byte value and the
bits left, or the detail of CORRUPT_PAYLOAD. -/
def decodeOne (codes : List (Byte × Nat × Nat)) (maxlen : Nat) : Nat → Nat → List Bool → Except Byte (Byte × List Bool)
  | _, _, [] => .error 1
  | l, c, b :: bits =>
    match codeLookup codes (l + 1) (2 * c + b.toNat) with
    | some v => .ok (v, bits)
    | none => if maxlen ≤ l + 1 then .error 2 else decodeOne codes maxlen (l + 1) (2 * c + b.toNat) bits

/-- The decoding of `t` symbols (R171): the byte values and the bits left, or the detail of CORRUPT_PAYLOAD. -/
def decodeMany (codes : List (Byte × Nat × Nat)) (maxlen : Nat) : Nat → List Bool → Except Byte (List Byte × List Bool)
  | 0, bits => .ok ([], bits)
  | t + 1, bits =>
    match decodeOne codes maxlen 0 0 bits with
    | .error d => .error d
    | .ok (v, rest) =>
      match decodeMany codes maxlen t rest with
      | .error d => .error d
      | .ok (out, left) => .ok (v :: out, left)

/-- BIT.UNPACK (R171). With T = 0 it succeeds with any table and any source. -/
def execBitUnpack (s : State) : Result :=
  let T := s.aux.toNat
  match firstError (checkAuxSize s :: checkRanges s ++
      [checkCap s T, (decide (T ≠ 0) && s.nsym == 0, ⟨.invalidCodeTable, 8⟩)]) with
  | some e => .next (raiseError (opcode .bitUnpack) e s)
  | none =>
    let stream := streamBits (srcBytes s)
    match decodeMany (codeList s) s.maxlen.toNat T stream with
    | .error d => .next (raiseError (opcode .bitUnpack) ⟨.corruptPayload, d⟩ s)
    | .ok (out, left) =>
      .next (result s.aux (BitVec.ofNat 32 (bytesFor (stream.length - left.length))) (dstWrite s out))

end Sys2Proof.Machine
end

