-- ==== Sys2Proof/Machine/Bwt.lean ====
section
/-! DEFINITION. The block transform (spec/42_bwt.md): the rotation order (R140), BWT.FWD (R141) and BWT.INV (R142). -/

namespace Sys2Proof.Machine

/-- `rot(i) = S[i..n) ++ S[0..i)` (R140). -/
def rotation (S : List Byte) (i : Nat) : List Byte := S.drop i ++ S.take i

/-- Comparison of byte sequences at the first differing index, by unsigned byte value (00_scope.md R13); the order is
applied to sequences of equal length only. -/
def lexCompare : List Byte → List Byte → Ordering
  | [], [] => .eq
  | [], _ :: _ => .lt
  | _ :: _, [] => .gt
  | x :: xs, y :: ys => if x.toNat < y.toNat then .lt else if y.toNat < x.toNat then .gt else lexCompare xs ys

/-- `i` comes before `j` in the rotation order, or is `j` (R140): smaller rotations first, ties by offset. -/
def rotLe (S : List Byte) (i j : Nat) : Bool :=
  match lexCompare (rotation S i) (rotation S j) with
  | .lt => true
  | .eq => decide (i ≤ j)
  | .gt => false

/-- `σ`: the offsets 0..n-1 in the rotation order (R140). -/
def sortedRotations (S : List Byte) : List Nat :=
  (List.range S.length).insertionSort fun i j => rotLe S i j = true

/-- The last column of the sorted rotation matrix (R141). -/
def bwtLastColumn (S : List Byte) : List Byte :=
  (sortedRotations S).map fun i => S.getD ((i + S.length - 1) % S.length) 0

/-- The primary index: the rank of rotation 0 (R141). For the empty block it is 0. -/
def bwtPrimaryIndex (S : List Byte) : Nat := (sortedRotations S).idxOf 0

/-- BWT.FWD (R141). With n = 0 nothing is written and the results are 0. -/
def execBwtFwd (s : State) : Result :=
  match firstError (checkSrcSize s :: checkRanges s ++ [checkCap s s.srcLen.toNat]) with
  | some e => .next (raiseError (opcode .bwtFwd) e s)
  | none =>
    let S := srcBytes s
    .next (result s.srcLen (BitVec.ofNat 32 (bwtPrimaryIndex S)) (dstWrite s (bwtLastColumn S)))

/-- `C[v]`: how many bytes of L are smaller than v (R142). -/
def smallerCount (L : List Byte) (v : Byte) : Nat := L.countP fun b => decide (b.toNat < v.toNat)

/-- `LF(i)` (R142). -/
def lfMap (L : List Byte) (i : Nat) : Nat := smallerCount L (L.getD i 0) + (L.take i).count (L.getD i 0)

/-- The backward walk of R142: from row `i`, `n` steps along the list `lf` of LF values, each visited byte prepended.
It answers the row it ends in and the bytes. -/
def lfWalk (L : List Byte) (lf : List Nat) : Nat → Nat → List Byte → Nat × List Byte
  | 0, i, out => (i, out)
  | n + 1, i, out => lfWalk L lf n (lf.getD i 0) (L.getD i 0 :: out)

/-- The whole walk of BWT.INV from row `p`, over the LF-mapping of L (R142). -/
def bwtInverse (L : List Byte) (p : Nat) : Nat × List Byte :=
  lfWalk L ((List.range L.length).map (lfMap L)) L.length p []

/-- BWT.INV (R142). With n = 0 the primary index must be 0, and nothing is written. -/
def execBwtInv (s : State) : Result :=
  match firstError (checkSrcSize s :: checkRanges s ++
      [checkCap s s.srcLen.toNat,
       (if s.srcLen.toNat = 0 then s.aux != 0 else decide (s.srcLen.toNat ≤ s.aux.toNat), ⟨.corruptTransform, 1⟩)]) with
  | some e => .next (raiseError (opcode .bwtInv) e s)
  | none =>
    let w := bwtInverse (srcBytes s) s.aux.toNat
    match firstError [(w.1 != s.aux.toNat, ⟨.corruptTransform, 2⟩)] with
    | some e => .next (raiseError (opcode .bwtInv) e s)
    | none => .next (result s.srcLen s.aux (dstWrite s w.2))

end Sys2Proof.Machine
end

