-- ==== Sys2Proof/Machine/Crc.lean ====
section
/-! DEFINITION. The CRC-32 function and the checksum commands CRC.INIT and CRC.UPDATE (spec/41_crc.md R130 to R132). -/

namespace Sys2Proof.Machine

/-- One of the 8 shifts of `CrcStep` (R130). -/
def crcShift (st : Word) : Word := if st.getLsbD 0 then (st >>> 1) ^^^ 0xEDB88320 else st >>> 1

/-- `CrcStep(st, b)` (R130). -/
def crcStep (st : Word) (b : Byte) : Word := Nat.iterate crcShift 8 (st ^^^ b.setWidth 32)

/-- `CrcFold(st, S)` (R130). -/
def crcFold (st : Word) (S : List Byte) : Word := S.foldl crcStep st

/-- The initial value and the final XOR of the CRC (R130, R131). -/
def crcMask : Word := 0xFFFFFFFF

/-- `CRC32(S)` (R130). -/
def crc32 (S : List Byte) : Word := crcFold crcMask S ^^^ crcMask

/-- The value of the register CRC_VALUE (10_state.md R37). -/
def crcValue (s : State) : Word := s.crcState ^^^ crcMask

/-- CRC.INIT (R131). -/
def execCrcInit (s : State) : Result :=
  let s' : State := { s with crcState := crcMask }
  .next (result 0 (crcValue s') s')

/-- CRC.UPDATE (R132). -/
def execCrcUpdate (s : State) : Result :=
  match firstError [checkSrc s] with
  | some e => .next (raiseError (opcode .crcUpdate) e s)
  | none =>
    let s' : State := { s with crcState := crcFold s.crcState (srcBytes s) }
    .next (result s.srcLen (crcValue s') s')

end Sys2Proof.Machine
end

