-- ==== Sys2Proof/Machine/Container.lean ====
section
/-! DEFINITION. The block container (spec/30_encoding.md R90 to R96, spec/45_container.md): the flags byte and its path,
the header (R180), the checks of a container (R183), and the commands CTR.FRAME (R182), CTR.UNFRAME (R184) and
CTR.REPL (R186). -/

namespace Sys2Proof.Machine

/-- The four decode procedures (30_encoding.md R93). -/
inductive Path where
  | plain | transform | degenerate | raw
deriving DecidableEq, Repr

/-- The path code of RES_FLAGS[9:8] (30_encoding.md R93). -/
def Path.code : Path → BitVec 2
  | .plain => 0
  | .transform => 1
  | .degenerate => 2
  | .raw => 3

/-- The path a flags byte selects, R before D before T (30_encoding.md R93). -/
def pathOf (f : Byte) : Path :=
  if f.getLsbD 2 then .raw else if f.getLsbD 1 then .degenerate else if f.getLsbD 0 then .transform else .plain

/-- The 13-byte header (R180). -/
def header (magic : Word) (payload : List Byte) (size : Word) (f : Byte) : List Byte :=
  toBe32 magic ++ toBe32 size ++ [f] ++ toBe32 (crc32 payload)

/-- A whole container (30_encoding.md R90). -/
def container (magic : Word) (payload : List Byte) (size : Word) (f : Byte) : List Byte :=
  header magic payload size f ++ payload

/-- The length of the header (30_encoding.md R91). -/
def headerLen : Nat := 13

/-- CTR.FRAME (R182). -/
def execCtrFrame (flags : Byte) (s : State) : Result :=
  match firstError (checkAuxSize s :: checkRanges s ++
      [(!flagsReservedOk flags, ⟨.illegalOperand, 1⟩),
       (!flagsCombinationOk flags, ⟨.illegalOperand, 2⟩),
       (flags.getLsbD 2 && s.aux != s.srcLen, ⟨.illegalOperand, 3⟩),
       checkCap s (headerLen + s.srcLen.toNat)]) with
  | some e => .next (raiseError (opcode (.ctrFrame flags)) e s)
  | none =>
    let P := srcBytes s
    .next (result (BitVec.ofNat 32 (headerLen + s.srcLen.toNat)) (crc32 P)
      (dstWrite s (container s.params.magic P s.aux flags)))

/-- The flags byte of a container (30_encoding.md R90). -/
def flagsByte (B : List Byte) : Byte := B.getD 8 0

/-- The checks of a container in the order of R183, steps 1 to 7. -/
def containerChecks (p : Params) (B : List Byte) : List Check :=
  [(decide (B.length < headerLen), ⟨.invalidFormat, 1⟩),
   (be32At B 0 != p.magic, ⟨.invalidFormat, 2⟩),
   (be32At B 9 != crc32 (B.drop headerLen), ⟨.integrity, 0⟩),
   (!flagsReservedOk (flagsByte B), ⟨.invalidFormat, 3⟩),
   (!flagsCombinationOk (flagsByte B), ⟨.invalidFormat, 4⟩),
   (decide (p.maxBlock.toNat < (be32At B 4).toNat), ⟨.inputTooLarge, 3⟩),
   (decide (pathOf (flagsByte B) = .transform) && decide (B.length - headerLen < 4), ⟨.invalidFormat, 5⟩)]

/-- The register value of a BUF address computed exactly. The one address a container can give that no 32-bit register
holds, 2^32 (an empty payload at the end of a BUF of 2^32 bytes), is a free value: the spec states none (log 11). -/
def addressResult (s : State) (addr : Nat) : Word :=
  if addr < 2 ^ 32 then BitVec.ofNat 32 addr else Config.freeWord s.fresh

/-- The registers RES_ADDR, RES_FLAGS and RES_PI after CTR.UNFRAME (R184, 10_state.md R35), where the decode input
starts at the container's offset `start`. -/
def locate (f : Byte) (start : Nat) (pi : Word) (s : State) : State :=
  let addr := s.srcAddr.toNat + start
  { s with
    resAddr := addressResult s addr
    fresh := if addr < 2 ^ 32 then s.fresh else s.fresh + 1
    resFlags := 0#22 ++ (pathOf f).code ++ f
    resPi := pi }

/-- CTR.UNFRAME (R184). -/
def execCtrUnframe (s : State) : Result :=
  match firstError [checkSrc s] with
  | some e => .next (raiseError (opcode .ctrUnframe) e s)
  | none =>
    let B := srcBytes s
    match firstError (containerChecks s.params B) with
    | some e => .next (raiseError (opcode .ctrUnframe) e s)
    | none =>
      let z := be32At B 4
      let f := flagsByte B
      let q := B.length - headerLen
      match pathOf f with
      | .raw =>
        let s' := locate f headerLen 0 s
        let s'' : State :=
          if sizeMismatch q z.toNat then { s' with status := { s'.status with warn := true } } else s'
        .next (result (BitVec.ofNat 32 (min q z.toNat)) z s'')
      | .degenerate => .next (result (BitVec.ofNat 32 q) z (locate f headerLen 0 s))
      | .transform => .next (result (BitVec.ofNat 32 (q - 4)) z (locate f (headerLen + 4) (be32At B headerLen) s))
      | .plain => .next (result (BitVec.ofNat 32 q) z (locate f headerLen 0 s))

/-- CTR.REPL (R186). -/
def execCtrRepl (s : State) : Result :=
  match firstError (checkAuxSize s :: checkRanges s ++
      [(s.srcLen != 1, ⟨.illegalOperand, 4⟩), checkCap s s.aux.toNat]) with
  | some e => .next (raiseError (opcode .ctrRepl) e s)
  | none =>
    let v := readBuf s s.srcAddr.toNat
    .next (result s.aux (v.setWidth 32) (dstWrite s (List.replicate s.aux.toNat v)))

end Sys2Proof.Machine
end

