-- ==== Sys2Proof/Machine/Control.lean ====
section
/-! DEFINITION. The control commands NOP, ERR.CLEAR and SRESET (spec/40_control.md R125 to R127), from acceptance on. -/

namespace Sys2Proof.Machine

/-- NOP: the result registers keep their values (R125). -/
def execNop (s : State) : Result := .next (result s.resLen s.resAux s)

/-- ERR.CLEAR: the error and WBUSY are cleared; the result registers keep their values (R126). -/
def execErrClear (s : State) : Result := .next (result s.resLen s.resAux (clearError s))

/-- SRESET: every register and table entry at its reset value, then CMD holds the word and DONE is set; BUF is kept
(R127). -/
def execSreset (s : State) : Result :=
  .next { resetRegisters s with cmd := encode .sreset, status := ⟨false, true, false, false, false⟩ }

end Sys2Proof.Machine
end

