-- ==== Sys2Proof/Machine/Huffman.lean ====
section
/-! DEFINITION. The Huffman table unit (spec/43_huffman.md): frequencies (R150), code lengths (R154, R155), canonical
codes (R156), the serialized table (spec/30_encoding.md R97, R157) and the commands HUF.COUNT, HUF.BUILD, HUF.WTABLE and
HUF.RTABLE (R150 to R153). -/

namespace Sys2Proof.Machine

/-- A node of the construction (R154): its weight, its key, and the byte values below it, each with its depth so far. -/
structure HufNode where
  weight : Nat
  key : Nat
  members : List (Byte × Nat)
deriving DecidableEq, Repr

/-- The order of nodes: weight first, then key (R154). -/
abbrev HufNode.le (x y : HufNode) : Prop := x.weight < y.weight ∨ x.weight = y.weight ∧ x.key ≤ y.key

/-- The leaf of a byte value with the given frequency (R154). -/
def hufLeaf (v : Byte) (f : Nat) : HufNode := ⟨f, v.toNat, [(v, 0)]⟩

/-- The node that two nodes merge into: weights added, the smaller key, every member one deeper (R154). -/
def hufMerge (x y : HufNode) : HufNode :=
  ⟨x.weight + y.weight, min x.key y.key, (x.members ++ y.members).map fun m => (m.1, m.2 + 1)⟩

/-- Merging the two least nodes of a list that stands in order, at most `n` times or until one node is left (R154). -/
def hufMergeAll : Nat → List HufNode → List HufNode
  | n + 1, x :: y :: ns => hufMergeAll n (List.orderedInsert HufNode.le (hufMerge x y) ns)
  | _, ns => ns

/-- The byte values that occur: those with a nonzero frequency, in ascending order (R154). -/
def present (F : Table Word) : List Byte := F.support

/-- The depths of the byte values in the finished tree (R154). -/
def hufDepths (F : Table Word) : List (Byte × Nat) :=
  let leaves := (present F).map fun v => hufLeaf v (F.get v).toNat
  (hufMergeAll leaves.length (leaves.insertionSort HufNode.le)).flatMap HufNode.members

/-- `HuffLengths(F)` (R154): nothing for no symbol, length 1 for a lone symbol (R155), else the depths. -/
def huffLengths (F : Table Word) : Table Nat :=
  match present F with
  | [] => Table.ofFn fun _ => 0
  | [v] => Table.ofFn fun u => if u = v then 1 else 0
  | _ =>
    let depths := hufDepths F
    Table.ofFn fun v => (depths.lookup v).getD 0

/-- The order of the canonical code: length ascending, then byte value ascending (R156). -/
abbrev canonLe (lens : Table Byte) (u v : Byte) : Prop :=
  (lens.get u).toNat < (lens.get v).toNat ∨ (lens.get u).toNat = (lens.get v).toNat ∧ u.toNat ≤ v.toNat

/-- The codes after the first: `(code + 1) << (length increase)`, from the previous code and its length (R156). -/
def canonFrom (lens : Table Byte) : Nat → Nat → List Byte → List (Byte × Nat)
  | _, _, [] => []
  | c, l, v :: vs =>
    let c' := (c + 1) <<< ((lens.get v).toNat - l)
    (v, c') :: canonFrom lens c' (lens.get v).toNat vs

/-- The code of every coded byte value, in canonical order, from code 0 (R156). -/
def canonCodes (lens : Table Byte) : List (Byte × Nat) :=
  match (coded lens).insertionSort (canonLe lens) with
  | [] => []
  | v :: vs => (v, 0) :: canonFrom lens 0 (lens.get v).toNat vs

/-- `Canon(LEN)` (R156): the CODE table of a LEN table. -/
def canon (lens : Table Byte) : Table CodeWord :=
  let codes := canonCodes lens
  Table.ofFn fun v => BitVec.ofNat 64 ((codes.lookup v).getD 0)

/-- The number of coded byte values (10_state.md R38). -/
def symbolCount (lens : Table Byte) : Nat := (coded lens).length

/-- The largest code length, 0 for an empty table (10_state.md R38). -/
def longest (lens : Table Byte) : Nat := (lens.entries.map BitVec.toNat).foldl max 0

/-- Install a LEN table: CODE is its canonical code, NSYM and MAXLEN agree with it (10_state.md R38, R42). -/
def loadTable (lens : Table Byte) (s : State) : State :=
  { s with
    len := lens, code := canon lens
    nsym := BitVec.ofNat 32 (symbolCount lens), maxlen := BitVec.ofNat 32 (longest lens) }

/-- The frequency table of a block (R150). -/
def frequencies (S : List Byte) : Table Word := Table.ofFn fun v => BitVec.ofNat 32 (S.count v)

/-- HUF.COUNT (R150). -/
def execHufCount (s : State) : Result :=
  match firstError [checkSrcSize s, checkSrc s] with
  | some e => .next (raiseError (opcode .hufCount) e s)
  | none =>
    let F := frequencies (srcBytes s)
    .next (result s.srcLen (BitVec.ofNat 32 (present F).length) { s with freq := F })

/-- HUF.BUILD (R151). -/
def execHufBuild (s : State) : Result :=
  let lens := huffLengths s.freq
  match firstError [(lens.entries.any fun l => decide (maxCodeLen < l), ⟨.codeTooLong, 0⟩)] with
  | some e => .next (raiseError (opcode .hufBuild) e s)
  | none =>
    let s' := loadTable (Table.ofFn fun v => BitVec.ofNat 8 (lens.get v)) s
    .next (result 0 s'.nsym s')

/-- The pairs (byte value, length) of a table, in ascending order of the byte value (30_encoding.md R97). -/
def tablePairs (lens : Table Byte) : List Byte := (coded lens).flatMap fun v => [v, lens.get v]

/-- The serialized code-length table (CLT); an empty table has none (30_encoding.md R97). -/
def cltBytes (lens : Table Byte) : List Byte :=
  if coded lens = [] then [] else BitVec.ofNat 8 ((coded lens).length - 1) :: tablePairs lens

/-- HUF.WTABLE (R152). -/
def execHufWtable (s : State) : Result :=
  let K := s.nsym.toNat
  match firstError [checkDst s, (decide (K ≠ 0) && (checkCap s (1 + 2 * K)).1, ⟨.dstOverflow, 0⟩)] with
  | some e => .next (raiseError (opcode .hufWtable) e s)
  | none =>
    if K = 0 then .next (result 0 0 s)
    else
      .next (result (BitVec.ofNat 32 (1 + 2 * K)) (BitVec.ofNat 32 K)
        (dstWrite s (BitVec.ofNat 8 (K - 1) :: tablePairs s.len)))

/-- The pairs of a CLT, `k` of them, the next byte value being at least `least`; or the detail of the first failing
check (R157). -/
def readPairs : Nat → Nat → List Byte → Except Byte (List (Byte × Byte))
  | 0, _, _ => .ok []
  | k + 1, least, v :: l :: B =>
    if v.toNat < least then .error 2
    else if l = 0 then .error 3
    else if maxCodeLen < l.toNat then .error 4
    else match readPairs k (v.toNat + 1) B with
      | .error d => .error d
      | .ok ps => .ok ((v, l) :: ps)
  | _ + 1, _, _ => .error 1

/-- The Kraft sum of a list of code lengths, scaled by `2^MAX_CODE_LEN` (R157). -/
def kraftSum (ls : List Nat) : Nat := (ls.map fun l => 2 ^ (maxCodeLen - l)).sum

/-- The detail of the check on the lengths of a whole table, if it fails (R157): a lone symbol has length 1; two or more
symbols form a complete prefix code. -/
def kraftError (ls : List Nat) : Option Byte :=
  match ls with
  | [l] => if l ≠ 1 then some 5 else none
  | _ =>
    if 2 ^ maxCodeLen < kraftSum ls then some 6
    else if kraftSum ls < 2 ^ maxCodeLen then some 7
    else none

/-- `ReadCLT(B)`: the table and its number of symbols, or the detail of the failing check (R157). -/
def readClt (B : List Byte) : Except Byte (Table Byte × Nat) :=
  match B with
  | [] => .error 1
  | b :: rest =>
    let K := b.toNat + 1
    if rest.length < 2 * K then .error 1
    else
      match readPairs K 0 rest with
      | .error d => .error d
      | .ok ps =>
        match kraftError (ps.map fun p => p.2.toNat) with
        | some d => .error d
        | none => .ok (Table.ofFn fun v => (ps.lookup v).getD 0, K)

/-- HUF.RTABLE (R153): a malformed table empties LEN, CODE, NSYM and MAXLEN and raises INVALID_CODE_TABLE. -/
def execHufRtable (s : State) : Result :=
  match firstError [checkSrc s] with
  | some e => .next (raiseError (opcode .hufRtable) e s)
  | none =>
    match readClt (srcBytes s) with
    | .error d => .next (raiseError (opcode .hufRtable) ⟨.invalidCodeTable, d⟩ (loadTable (Table.fill 0) s))
    | .ok (lens, K) =>
      .next (result (BitVec.ofNat 32 (1 + 2 * K)) (BitVec.ofNat 32 K)
        { loadTable lens s with nsym := BitVec.ofNat 32 K })

end Sys2Proof.Machine
end

