-- ==== Sys2Proof/Machine/Dispatch.lean ====
section
/-! DEFINITION. The meaning of each command, one arm per row of spec/opcode_table.json: the last line of acceptance,
"run the rule of the command w[7:0] names" (spec/40_control.md R121). -/

namespace Sys2Proof.Machine

def exec (i : Instr) (s : State) : Host.Outcome State Fault Refusal :=
  match i with
  | .nop => Sys2Proof.Machine.execNop s
  | .errClear => Sys2Proof.Machine.execErrClear s
  | .sreset => Sys2Proof.Machine.execSreset s
  | .crcInit => Sys2Proof.Machine.execCrcInit s
  | .crcUpdate => Sys2Proof.Machine.execCrcUpdate s
  | .bwtFwd => Sys2Proof.Machine.execBwtFwd s
  | .bwtInv => Sys2Proof.Machine.execBwtInv s
  | .hufCount => Sys2Proof.Machine.execHufCount s
  | .hufBuild => Sys2Proof.Machine.execHufBuild s
  | .hufWtable => Sys2Proof.Machine.execHufWtable s
  | .hufRtable => Sys2Proof.Machine.execHufRtable s
  | .bitPack => Sys2Proof.Machine.execBitPack s
  | .bitUnpack => Sys2Proof.Machine.execBitUnpack s
  | .ctrFrame flags => Sys2Proof.Machine.execCtrFrame flags s
  | .ctrUnframe => Sys2Proof.Machine.execCtrUnframe s
  | .ctrRepl => Sys2Proof.Machine.execCtrRepl s

end Sys2Proof.Machine
end

