-- ==== Sys2Proof/Machine/Bus.lean ====
section
/-! DEFINITION. The host side of the block: the register map (spec/10_state.md R39), register and BUF accesses (R43, R44,
R48, spec/20_memory.md R60, R73), the issue of a command (spec/40_control.md R120 to R124) and the service of one event.
Also the accesses of a host program (spec/30_encoding.md R85, R86). -/

namespace Sys2Proof.Machine

/-! ### The register map -/

/-- The single registers by byte offset (10_state.md R39). -/
def namedRegs : List (Nat × Reg) :=
  [(0x000, .id), (0x004, .cmd), (0x008, .status), (0x00C, .errcode),
   (0x010, .srcAddr), (0x014, .srcLen), (0x018, .dstAddr), (0x01C, .dstCap), (0x020, .aux),
   (0x024, .resLen), (0x028, .resAux), (0x02C, .resAddr), (0x030, .resFlags), (0x034, .resPi),
   (0x038, .crcState), (0x03C, .crcValue), (0x040, .nsym), (0x044, .maxlen)]

/-- The register at an aligned byte offset of the window, if the map names one (10_state.md R39). -/
def regAt (off : Nat) : Option Reg :=
  if off < 0x400 then namedRegs.lookup off
  else if off < 0x800 then some (.freq (BitVec.ofNat 8 ((off - 0x400) / 4)))
  else if off < 0xC00 then some (.len (BitVec.ofNat 8 ((off - 0x800) / 4)))
  else if off < 0x1400 then
    if (off - 0xC00) % 8 = 0 then some (.codeLo (BitVec.ofNat 8 ((off - 0xC00) / 8)))
    else some (.codeHi (BitVec.ofNat 8 ((off - 0xC00) / 8)))
  else none

/-- The byte offset of a register (10_state.md R39). -/
def regOffset : Reg → Nat
  | .id => 0x000
  | .cmd => 0x004
  | .status => 0x008
  | .errcode => 0x00C
  | .srcAddr => 0x010
  | .srcLen => 0x014
  | .dstAddr => 0x018
  | .dstCap => 0x01C
  | .aux => 0x020
  | .resLen => 0x024
  | .resAux => 0x028
  | .resAddr => 0x02C
  | .resFlags => 0x030
  | .resPi => 0x034
  | .crcState => 0x038
  | .crcValue => 0x03C
  | .nsym => 0x040
  | .maxlen => 0x044
  | .freq v => 0x400 + 4 * v.toNat
  | .len v => 0x800 + 4 * v.toNat
  | .codeLo v => 0xC00 + 8 * v.toNat
  | .codeHi v => 0xC04 + 8 * v.toNat

/-- The host may write the register (10_state.md R39, access RW or W; R29). -/
def Reg.writable : Reg → Bool
  | .cmd | .srcAddr | .srcLen | .dstAddr | .dstCap | .aux | .crcState | .freq _ => true
  | .id | .status | .errcode | .resLen | .resAux | .resAddr | .resFlags | .resPi | .crcValue | .nsym | .maxlen
  | .len _ | .codeLo _ | .codeHi _ => false

/-- The value read is unspecified while BUSY is 1 (10_state.md R26). -/
def Reg.openWhileBusy : Reg → Bool
  | .errcode | .resLen | .resAux | .resAddr | .resFlags | .resPi | .crcState | .crcValue | .nsym | .maxlen
  | .freq _ | .len _ | .codeLo _ | .codeHi _ => true
  | .id | .cmd | .status | .srcAddr | .srcLen | .dstAddr | .dstCap | .aux => false

/-- `x[NAME]`, the value of a register (10_state.md R22 to R42). -/
def readReg (s : State) : Reg → Word
  | .id => s.params.hwId
  | .cmd => s.cmd
  | .status => s.status.shown.toWord
  | .errcode => s.errcode
  | .srcAddr => s.srcAddr
  | .srcLen => s.srcLen
  | .dstAddr => s.dstAddr
  | .dstCap => s.dstCap
  | .aux => s.aux
  | .resLen => s.resLen
  | .resAux => s.resAux
  | .resAddr => s.resAddr
  | .resFlags => s.resFlags
  | .resPi => s.resPi
  | .crcState => s.crcState
  | .crcValue => crcValue s
  | .nsym => s.nsym
  | .maxlen => s.maxlen
  | .freq v => s.freq.get v
  | .len v => (s.len.get v).setWidth 32
  | .codeLo v => (s.code.get v).extractLsb' 0 32
  | .codeHi v => (s.code.get v).extractLsb' 32 32

/-- A host write to a register that is plain storage; every other register keeps its value (10_state.md R31 to R33,
R36, R41, R44). A write to CMD is no such write: it issues a command. -/
def writeReg (s : State) (r : Reg) (w : Word) : State :=
  match r with
  | .srcAddr => { s with srcAddr := w }
  | .srcLen => { s with srcLen := w }
  | .dstAddr => { s with dstAddr := w }
  | .dstCap => { s with dstCap := w }
  | .aux => { s with aux := w }
  | .crcState => { s with crcState := w }
  | .freq v => { s with freq := s.freq.set v w }
  | .id | .cmd | .status | .errcode | .resLen | .resAux | .resAddr | .resFlags | .resPi | .crcValue | .nsym | .maxlen
  | .len _ | .codeLo _ | .codeHi _ => s

/-! ### Issue, acceptance, completion -/

/-- The word acknowledges an error: exactly ERR.CLEAR or SRESET (40_control.md R120). -/
def acknowledges (w : Word) : Bool := w == encode .errClear || w == encode .sreset

/-- The word is discarded: ERR is 1 and the word does not acknowledge it (40_control.md R120, R122). -/
def discarded (s : State) (w : Word) : Bool := s.status.err && !acknowledges w

/-- A dropped register write sets WBUSY and nothing else (10_state.md R29, R48). -/
def dropWrite (s : State) : State :=
  { s with status := { s.status with wbusy := true }, spanDrop := true }

/-- The detail of ILLEGAL_COMMAND (30_encoding.md R83). -/
def DecodeError.detail : DecodeError → Byte
  | .reservedOpcode => 1
  | .reservedBits => 2

/-- Decode the accepted word in CMD and run its rule (40_control.md R121, last two lines). -/
def runAccepted (s : State) : Result :=
  match decode s.cmd with
  | .error e => .next (raiseError (opcodeField s.cmd) ⟨.illegalCommand, DecodeError.detail e⟩ s)
  | .ok i => exec i s

/-- WBUSY after the running command completed to the state `t`. Where ERR.CLEAR ran and a register write was dropped
while it did, the spec does not say whether the drop or the clearing came last: the bit is a free value (log 8). -/
def settleWbusy (s t : State) : State :=
  if s.spanDrop && s.cmd == encode .errClear then
    { t with status := { t.status with wbusy := Config.freeBit t.fresh }, fresh := t.fresh + 1 }
  else t

/-- The end of the running command's span (40_control.md R123; log 14): its rule is applied, whose operands no host
access of the span could change. -/
def completeSpan (s : State) : Result :=
  match runAccepted { s with spanDrop := false } with
  | .next t => .next (settleWbusy s t)
  | .fault r => .fault r
  | .refused r => .refused r

/-- A host write of `w` to CMD, the command completing at once (40_control.md R120, R121, R123). -/
def issue (s : State) (w : Word) : Result :=
  if s.status.busy then .next (dropWrite s)
  else if discarded s w then .next s
  else runAccepted (accept w s)

/-- A host write of `w` to CMD, the command running on after it (40_control.md R120, R121; log 14). -/
def issueOpen (s : State) (w : Word) : State :=
  if s.status.busy then dropWrite s
  else if discarded s w then s
  else accept w s

/-! ### Service of one event -/

/-- A host write of an aligned word in the window (10_state.md R43, R44, R48). -/
def busWrite (s : State) (off : Nat) (w : Word) : Result :=
  match regAt off with
  | none => .next s
  | some .cmd => issue s w
  | some r =>
    if !r.writable then .next s
    else if s.status.busy then .next (dropWrite s)
    else .next (writeReg s r w)

/-- A host read of an aligned word in the window; an offset the map does not name reads 0 (10_state.md R43), and a
register whose value is unspecified while BUSY is 1 reads a free value then (R26; log 5). -/
def busRead (s : State) (off : Nat) : State :=
  match regAt off with
  | none => { s with hostData := 0 }
  | some r =>
    if s.status.busy && r.openWhileBusy then { s with hostData := Config.freeWord s.fresh, fresh := s.fresh + 1 }
    else { s with hostData := readReg s r }

/-- The checks of a host register access before it reaches the block (10_state.md R43, 20_memory.md R60). -/
def regAccess (off width : Nat) (k : Result) : Result :=
  if !regAccessAligned off width then .refused .registerAccess
  else if !regAccessInWindow off then .refused .outsideWindow
  else k

/-- The checks of a host BUF access before it reaches BUF (20_memory.md R60, R73). -/
def bufAccess (s : State) (addr : Word) (k : State) : Result :=
  if s.params.bufBytes ≤ addr.toNat then .fault .bufAddress
  else if s.status.busy && inFlight s addr.toNat then .fault .hostRace
  else .next k

/-- The service of one event. -/
def serve (s : State) : HostEvent → Result
  | .regWrite off width data => regAccess off width (busWrite s off data)
  | .regRead off width => regAccess off width (.next (busRead s off))
  | .bufWrite addr b => bufAccess s addr (memWrite s addr.toNat [b])
  | .bufRead addr => bufAccess s addr { s with hostData := (readBuf s addr.toNat).setWidth 32 }
  | .issueSpan w => .next (issueOpen s w)
  | .complete => if s.status.busy then completeSpan s else .next s
  | .hwReset => .next (hardwareReset s)

/-- One step: the next event in program order (20_memory.md R74); with none left, a running command completes, since
every command completes in finite time (70_reset_and_hazards.md R243), and an idle engine keeps all state
(60_exceptions.md R226). -/
def serveNext (s : State) : Result :=
  match s.host with
  | [] => if s.status.busy then completeSpan s else .next s
  | e :: rest => serve { s with host := rest } e

/-- `s` with the host about to write the word to CMD, in a state in which the engine accepts it (40_control.md R120):
BUSY is 0, and ERR is 0 unless the word acknowledges an error. -/
def offerWord (s : State) (w : Word) : State :=
  { s with
    status := { s.status with busy := false, err := s.status.err && acknowledges w }
    host := .regWrite 0x004 4 w :: s.host }

/-! ### Host programs (30_encoding.md R85, R86) -/

/-- `SET <REG>, <value>`. -/
def hostSet (r : Reg) (v : Word) : List HostEvent := [.regWrite (regOffset r) 4 v]

/-- `GO <MNEMONIC>`. -/
def hostGo (i : Instr) : List HostEvent := [.regWrite 0x004 4 (encode i)]

/-- `WAIT`: the host reads STATUS until BUSY is 0, so the running command has completed when its last read is made
(70_reset_and_hazards.md R242). -/
def hostWait : List HostEvent := [.complete, .regRead 0x008 4]

/-- `GET <REG>`. -/
def hostGet (r : Reg) : List HostEvent := [.regRead (regOffset r) 4]

/-- `LOADB <addr>, <b0> <b1> ...`. -/
def hostLoad (addr : Nat) (bs : List Byte) : List HostEvent :=
  (List.range bs.length).map fun k => .bufWrite (BitVec.ofNat 32 (addr + k)) (bs.getD k 0)

/-- The operand registers a command's pseudo-instruction sets, in its order (30_encoding.md R86). -/
def pseudoOperands : Instr → List Reg
  | .nop | .errClear | .sreset | .crcInit | .hufBuild => []
  | .crcUpdate | .hufCount | .hufRtable | .ctrUnframe => [.srcAddr, .srcLen]
  | .hufWtable => [.dstAddr, .dstCap]
  | .bwtFwd | .bitPack => [.srcAddr, .srcLen, .dstAddr, .dstCap]
  | .bwtInv | .bitUnpack | .ctrFrame _ => [.srcAddr, .srcLen, .dstAddr, .dstCap, .aux]
  | .ctrRepl => [.srcAddr, .srcLen, .dstAddr, .dstCap, .aux]

/-- A command mnemonic with operands (30_encoding.md R86): the operand registers are set, in order, then the command is
issued and waited for. CTR.REPL's pseudo-instruction gives SRC_LEN the value 1, which `values` then holds. -/
def pseudo (i : Instr) (values : List Word) : List HostEvent :=
  ((pseudoOperands i).zip values).flatMap (fun p => hostSet p.1 p.2) ++ hostGo i ++ hostWait

end Sys2Proof.Machine
end

