-- ==== Sys2Proof/Machine/Step.lean ====
section
/-! DEFINITION. One step of the machine, and the placing of a command word where the next step takes it (log 1). -/

namespace Sys2Proof.Machine

/-- One step: the next host access or timing event is served (spec/20_memory.md R75; log 1). -/
def step (s : State) : Host.Outcome State Fault Refusal := serveNext s

/-- `s` with the command word `w` (of `nbits` bits, the bits above them 0) as the next thing the host writes to CMD, in a
state in which the engine accepts a command. -/
def State.withFetchWord (s : State) (nbits w : Nat) : State := offerWord s (BitVec.ofNat 32 (w % 2 ^ nbits))

end Sys2Proof.Machine
end

