-- ==== Sys2Proof/Safety.lean ====
section
/-! DEFINITION. What the statements mean by a sound state: the invariant of the block (the rules that hold "always"), a
complete code table, and the state a command's error leaves. -/

namespace Sys2Proof.Machine

/-- The rules that hold of the block between any two steps. -/
structure Inv (s : State) : Prop where
  /-- BUF is in canonical form. -/
  bufSorted : s.buf.wf
  /-- BUF has the addresses 0 to `BUF_BYTES - 1` (10_state.md R45). -/
  bufInside : ∀ c ∈ s.buf, c.1 < s.params.bufBytes
  /-- The free contents of BUF date from a reset that has taken place (log 3). -/
  epochUsed : s.bufEpoch < s.fresh
  /-- CODE is the canonical code of LEN (10_state.md R42). -/
  codeCanonical : s.code = canon s.len
  /-- NSYM agrees with LEN (10_state.md R38). -/
  nsymAgrees : s.nsym = BitVec.ofNat 32 (symbolCount s.len)
  /-- MAXLEN agrees with LEN (10_state.md R38). -/
  maxlenAgrees : s.maxlen = BitVec.ofNat 32 (longest s.len)
  /-- DONE and ERR are never both 1 (10_state.md R27). -/
  doneNotErr : s.status.done = true → s.status.err = false
  /-- While a command runs, DONE and WARN are 0 (40_control.md R121). -/
  busyNotDone : s.status.busy = true → s.status.done = false ∧ s.status.warn = false
  /-- While a command runs with ERR still 1, it is ERR.CLEAR or SRESET (40_control.md R120, R121). -/
  busyErr : s.status.busy = true → s.status.err = true → acknowledges s.cmd = true
  /-- WARN describes a successful command (10_state.md R25). -/
  warnDone : s.status.warn = true → s.status.done = true
  /-- An error is recorded exactly while ERR is 1 (10_state.md R28, R30). -/
  errcodeErr : s.errcode ≠ 0 ↔ s.status.err = true
  /-- ERRCODE[31:24] is 0 (10_state.md R30). -/
  errcodeReserved : s.errcode.extractLsb' 24 8 = 0
  /-- Class codes above 13 are never written (60_exceptions.md R201). -/
  errcodeClass : (s.errcode.extractLsb' 0 8).toNat ≤ 13
  /-- ERRCODE[23:16] is the opcode of the command that failed, whose word stands in CMD (10_state.md R30, R23). -/
  errcodeNamesCommand : s.status.err = true → s.status.busy = false → s.errcode.extractLsb' 16 8 = opcodeField s.cmd
  /-- After an error the result registers are 0 (60_exceptions.md R210). -/
  errResults : s.status.err = true →
    s.resLen = 0 ∧ s.resAux = 0 ∧ s.resAddr = 0 ∧ s.resFlags = 0 ∧ s.resPi = 0
  /-- RES_FLAGS[31:10] is 0 (10_state.md R35). -/
  resFlagsReserved : s.resFlags.extractLsb' 10 22 = 0

/-- A LEN table that HUF.BUILD or HUF.RTABLE can leave (43_huffman.md R155, R157): empty, one symbol of length 1, or two
or more symbols of lengths up to 64 whose Kraft sum is 1. -/
def CompleteTable (lens : Table Byte) : Prop :=
  coded lens = []
    ∨ (∃ v, coded lens = [v] ∧ lens.get v = 1)
    ∨ 2 ≤ (coded lens).length ∧ (∀ v, (lens.get v).toNat ≤ 64)
        ∧ ((coded lens).map fun v => 2 ^ (64 - (lens.get v).toNat)).sum = 2 ^ 64

end Sys2Proof.Machine
end

