-- ==== Sys2Proof/Certificates/Slice0/Obligations.lean ====
section
/-! DEFINITION. The statements for the provers. The words they use (ranges, rotations, errors, register columns) are
written here from the rules of spec/, apart from the model's own definitions, wherever a rule gives a formula. In every
statement the State fields `host`, `hostData`, `bufEpoch`, `fresh` and `spanDrop` are the model's own, not the spec's
(logs 1, 12, 3, 13 and 8): what a statement says of them is the model's bookkeeping and part of no rule it cites. -/

namespace Sys2Proof.Spec

open Sys2Proof.Machine

/-! ### Words of the statements -/

/-- A range lies in BUF, or is empty (20_memory.md R63). -/
abbrev InBuf (p : Params) (a n : Word) : Prop := n.toNat = 0 ∨ a.toNat + n.toNat ≤ p.bufLast.toNat + 1

/-- Two ranges share a byte (20_memory.md R64). -/
abbrev Share (a n d c : Word) : Prop :=
  0 < n.toNat ∧ 0 < c.toNat ∧ a.toNat < d.toNat + c.toNat ∧ d.toNat < a.toNat + n.toNat

/-- The two ranges of a command pass the checks of 20_memory.md R63 and R64. -/
abbrev RangesOk (s : State) : Prop :=
  InBuf s.params s.srcAddr s.srcLen ∧ InBuf s.params s.dstAddr s.dstCap
    ∧ ¬ Share s.srcAddr s.srcLen s.dstAddr s.dstCap

/-- A length is a block length the hardware accepts (00_scope.md R10). -/
abbrev BlockOk (s : State) (v : Word) : Prop := v.toNat ≤ s.params.maxBlock.toNat

/-- The status bits after successful completion (40_control.md R124). -/
abbrev doneStatus (b : Status) : Status := ⟨false, true, b.err, b.warn, b.wbusy⟩

/-- The successful outcome of a command that writes the bytes `out` at DST_ADDR and the results `len` and `aux`: nothing
else changes, and no byte of BUF outside `[DST_ADDR, DST_ADDR + |out|)` does. -/
def Wrote (s t : State) (out : List Byte) (len aux : Word) : Prop :=
  t = { s with buf := t.buf, resLen := len, resAux := aux, status := doneStatus s.status }
    ∧ memRead t s.dstAddr.toNat out.length = out
    ∧ ∀ a, a < s.dstAddr.toNat ∨ s.dstAddr.toNat + out.length ≤ a → readBuf t a = readBuf s a

/-- The state that an error with class `c`, detail `d` of the command with opcode `o` leaves (60_exceptions.md R210). -/
def errorState (o c d : Nat) (s : State) : State :=
  { s with
    resLen := 0, resAux := 0, resAddr := 0, resFlags := 0, resPi := 0
    errcode := BitVec.ofNat 32 (c + d * 0x100 + o * 0x10000)
    status := ⟨false, false, true, false, s.status.wbusy⟩ }

/-- The reset column of the register map (10_state.md R39). -/
def resetColumn (p : Params) : Reg → Word
  | .id => p.hwId
  | .crcState => 0xFFFFFFFF
  | _ => 0

/-- The offsets of the registers the host may write (10_state.md R29, R39). -/
abbrev WritableOffset (off : Nat) : Prop :=
  off = 0x004 ∨ off = 0x010 ∨ off = 0x014 ∨ off = 0x018 ∨ off = 0x01C ∨ off = 0x020 ∨ off = 0x038
    ∨ 0x400 ≤ off ∧ off < 0x800

/-- The registers whose value is unspecified while BUSY is 1 (10_state.md R26). -/
def UnspecifiedWhileBusy : Reg → Prop
  | .resLen | .resAux | .resAddr | .resFlags | .resPi | .crcState | .crcValue | .nsym | .maxlen | .errcode
  | .freq _ | .len _ | .codeLo _ | .codeHi _ => True
  | .id | .cmd | .status | .srcAddr | .srcLen | .dstAddr | .dstCap | .aux => False

/-- Rotation i is smaller than rotation j: they agree up to an index and rotation i is smaller there (42_bwt.md R140). -/
def RotLess (S : List Byte) (i j : Nat) : Prop :=
  ∃ k < S.length,
    (∀ m < k, S.getD ((i + m) % S.length) 0 = S.getD ((j + m) % S.length) 0)
      ∧ (S.getD ((i + k) % S.length) 0).toNat < (S.getD ((j + k) % S.length) 0).toNat

/-- The rotation order: smaller rotations first, equal ones by offset (42_bwt.md R140). -/
def RotBefore (S : List Byte) (i j : Nat) : Prop :=
  RotLess S i j
    ∨ (∀ m < S.length, S.getD ((i + m) % S.length) 0 = S.getD ((j + m) % S.length) 0) ∧ i < j

/-- The LF-mapping (42_bwt.md R142): the bytes smaller than row i's byte, and the equal bytes above row i. -/
def lf (L : List Byte) (i : Nat) : Nat :=
  (L.filter fun b => b.toNat < (L.getD i 0).toNat).length + ((L.take i).filter fun b => b = L.getD i 0).length

/-- The code of a byte value as bits, most significant first (30_encoding.md R99). -/
def bitsOfCode (s : State) (v : Byte) : List Bool :=
  (List.range (s.len.get v).toNat).map fun i => (s.code.get v).getLsbD ((s.len.get v).toNat - 1 - i)

/-- The concatenated codes of a block (30_encoding.md R99). -/
def bitsOfBlock (s : State) (X : List Byte) : List Bool := X.flatMap (bitsOfCode s)

/-- Bytes for a number of bits, rounded up. -/
def bytesOfBits (n : Nat) : Nat := n / 8 + if n % 8 = 0 then 0 else 1

/-- A big-endian field (20_memory.md R67). -/
def be (v : Word) : List Byte :=
  [BitVec.ofNat 8 (v.toNat / 2 ^ 24), BitVec.ofNat 8 (v.toNat / 2 ^ 16), BitVec.ofNat 8 (v.toNat / 2 ^ 8),
   BitVec.ofNat 8 v.toNat]

/-- The bytes of a container: magic, original size, flags, checksum, payload (30_encoding.md R90). -/
def containerBytes (magic size checksum : Word) (f : Byte) (P : List Byte) : List Byte :=
  be magic ++ be size ++ [f] ++ be checksum ++ P

/-- The path code of a flags byte (30_encoding.md R93). -/
def pathCode (f : Byte) : Nat :=
  if f.getLsbD 2 then 3 else if f.getLsbD 1 then 2 else if f.getLsbD 0 then 1 else 0

/-- A flags byte is valid: reserved bits clear, not both R and D (30_encoding.md R94). -/
abbrev FlagsOk (f : Byte) : Prop := f.toNat / 8 = 0 ∧ ¬ (f.getLsbD 2 = true ∧ f.getLsbD 1 = true)

/-- The byte values with a code (10_state.md R38). -/
def symbols (lens : Table Byte) : List Byte := allBytes.filter fun v => 0 < (lens.get v).toNat

/-- The serialized table of a LEN table with at least one symbol (30_encoding.md R97). -/
def clt (lens : Table Byte) : List Byte :=
  BitVec.ofNat 8 ((symbols lens).length - 1) :: (symbols lens).flatMap fun v => [v, lens.get v]

/-- A node of the Huffman construction: weight, key, and the byte values below it (43_huffman.md R154). -/
structure Node where
  weight : Nat
  key : Nat
  members : List Byte
deriving DecidableEq, Repr

/-- The order of nodes: the least weight, then the least key (43_huffman.md R154). -/
abbrev Node.Before (x y : Node) : Prop := x.weight < y.weight ∨ x.weight = y.weight ∧ x.key < y.key

/-- The node that comes before every other node (43_huffman.md R154). -/
def leastNode (N : List Node) : Option Node := N.find? fun x => N.all fun z => decide (z = x ∨ x.Before z)

/-- The depth of a byte value after merging at most `n` times: each round takes the least node out, then the least of the
rest, and puts their union back, whose members all get one deeper (43_huffman.md R154). -/
def mergeDepth : Nat → List Node → Byte → Nat
  | 0, _, _ => 0
  | n + 1, N, v =>
    match leastNode N with
    | none => 0
    | some x =>
      match leastNode (N.erase x) with
      | none => 0
      | some y =>
        (if v ∈ x.members ++ y.members then 1 else 0)
          + mergeDepth n (⟨x.weight + y.weight, min x.key y.key, x.members ++ y.members⟩ :: (N.erase x).erase y) v

/-- `HuffLengths(F)` of 43_huffman.md R154, R155: the code length that the frequencies `F` give a byte value. -/
def huffLength (F : Table Word) (v : Byte) : Nat :=
  let A := allBytes.filter fun u => 0 < (F.get u).toNat
  if A.length = 1 then (if v ∈ A then 1 else 0)
  else mergeDepth A.length (A.map fun u => ⟨(F.get u).toNat, u.toNat, [u]⟩) v

/-- The detail of the first bad pair of a serialized table whose next byte value is at least `least`
(43_huffman.md R157). -/
def pairError : Nat → List (Byte × Byte) → Option Nat
  | _, [] => none
  | least, (v, l) :: ps =>
    if v.toNat < least then some 2
    else if l.toNat = 0 then some 3
    else if 64 < l.toNat then some 4
    else pairError (v.toNat + 1) ps

/-- The detail of the first failing check of `ReadCLT` (43_huffman.md R157), if one fails. -/
def cltError (B : List Byte) : Option Nat :=
  let K := (B.getD 0 0).toNat + 1
  let ps := (List.range K).map fun j => (B.getD (1 + 2 * j) 0, B.getD (2 + 2 * j) 0)
  let kraft := (ps.map fun p => 2 ^ (64 - p.2.toNat)).sum
  if B.length < 1 ∨ B.length < 1 + 2 * K then some 1
  else match pairError 0 ps with
    | some d => some d
    | none =>
      if K = 1 then (if (B.getD 2 0).toNat = 1 then none else some 5)
      else if 2 ^ 64 < kraft then some 6
      else if kraft < 2 ^ 64 then some 7
      else none

/-- The error of packing the rest of a block after `n` bits (44_bitpack.md R170), if there is one. -/
def packError (s : State) : Nat → List Byte → Option (Nat × Nat)
  | _, [] => none
  | n, v :: S =>
    if (s.len.get v).toNat = 0 then some (11, v.toNat)
    else if s.dstCap.toNat < bytesOfBits (n + (s.len.get v).toNat) then some (10, 0)
    else packError s (n + (s.len.get v).toNat) S

/-- `DecodeOne` (44_bitpack.md R172) after `l` bits of value `code`: the bits left after a code, or the detail of
CORRUPT_PAYLOAD. -/
def decodeStep (s : State) : Nat → Nat → List Bool → Except Nat (List Bool)
  | _, _, [] => .error 1
  | l, code, b :: bits =>
    if ∃ v, (s.len.get v).toNat = l + 1 ∧ (s.code.get v).toNat = 2 * code + b.toNat then .ok bits
    else if s.maxlen.toNat ≤ l + 1 then .error 2
    else decodeStep s (l + 1) (2 * code + b.toNat) bits

/-- The detail of CORRUPT_PAYLOAD that decoding `n` symbols raises (44_bitpack.md R171, R172), if it raises one. -/
def unpackError (s : State) : Nat → List Bool → Option Nat
  | 0, _ => none
  | n + 1, bits =>
    match decodeStep s 0 0 bits with
    | .error d => some d
    | .ok left => unpackError s n left

/-- `u` comes before `v` in the order of the canonical code (43_huffman.md R156). -/
abbrev CanonBefore (lens : Table Byte) (u v : Byte) : Prop :=
  (lens.get u).toNat < (lens.get v).toNat ∨ (lens.get u).toNat = (lens.get v).toNat ∧ u.toNat < v.toNat

/-- The error of the two range checks, in the order of 60_exceptions.md R203, before the check `rest`. -/
def rangeError (s : State) (rest : Option (Nat × Nat)) : Option (Nat × Nat) :=
  if ¬ InBuf s.params s.srcAddr s.srcLen then some (8, 1)
  else if ¬ InBuf s.params s.dstAddr s.dstCap then some (8, 2)
  else if Share s.srcAddr s.srcLen s.dstAddr s.dstCap then some (9, 0)
  else rest

/-- The error a command ends with, as (class code, detail code), by the order of checks of 60_exceptions.md R203 and the
codes of R201; none where it succeeds. -/
def commandError (s : State) : Instr → Option (Nat × Nat)
  | .nop | .errClear | .sreset | .crcInit => none
  | .crcUpdate => if ¬ InBuf s.params s.srcAddr s.srcLen then some (8, 1) else none
  | .bwtFwd =>
    if ¬ BlockOk s s.srcLen then some (1, 1)
    else rangeError s (if s.dstCap.toNat < s.srcLen.toNat then some (10, 0) else none)
  | .bwtInv =>
    if ¬ BlockOk s s.srcLen then some (1, 1)
    else rangeError s
      (if s.dstCap.toNat < s.srcLen.toNat then some (10, 0)
       else if s.srcLen.toNat = 0 then (if s.aux.toNat ≠ 0 then some (4, 1) else none)
       else if s.srcLen.toNat ≤ s.aux.toNat then some (4, 1)
       else if (lf (srcBytes s))^[s.srcLen.toNat] s.aux.toNat ≠ s.aux.toNat then some (4, 2)
       else none)
  | .hufCount =>
    if ¬ BlockOk s s.srcLen then some (1, 1)
    else if ¬ InBuf s.params s.srcAddr s.srcLen then some (8, 1) else none
  | .hufBuild => if ∃ v, 64 < huffLength s.freq v then some (13, 0) else none
  | .hufWtable =>
    if ¬ InBuf s.params s.dstAddr s.dstCap then some (8, 2)
    else if s.nsym.toNat = 0 then none
    else if s.dstCap.toNat < 1 + 2 * s.nsym.toNat then some (10, 0) else none
  | .hufRtable =>
    if ¬ InBuf s.params s.srcAddr s.srcLen then some (8, 1)
    else (cltError (srcBytes s)).map fun d => (5, d)
  | .bitPack =>
    if ¬ BlockOk s s.srcLen then some (1, 1)
    else rangeError s (packError s 0 (srcBytes s))
  | .bitUnpack =>
    if ¬ BlockOk s s.aux then some (1, 2)
    else rangeError s
      (if s.dstCap.toNat < s.aux.toNat then some (10, 0)
       else if s.aux.toNat = 0 then none
       else if s.nsym.toNat = 0 then some (5, 8)
       else (unpackError s s.aux.toNat (streamBits (srcBytes s))).map fun d => (6, d))
  | .ctrFrame f =>
    if ¬ BlockOk s s.aux then some (1, 2)
    else rangeError s
      (if f.toNat / 8 ≠ 0 then some (12, 1)
       else if f.getLsbD 2 = true ∧ f.getLsbD 1 = true then some (12, 2)
       else if f.getLsbD 2 = true ∧ s.aux ≠ s.srcLen then some (12, 3)
       else if s.dstCap.toNat < 13 + s.srcLen.toNat then some (10, 0)
       else none)
  | .ctrUnframe =>
    if ¬ InBuf s.params s.srcAddr s.srcLen then some (8, 1)
    else
      let B := srcBytes s
      if s.srcLen.toNat < 13 then some (2, 1)
      else if B.take 4 ≠ be s.params.magic then some (2, 2)
      else if (B.drop 9).take 4 ≠ be (crc32 (B.drop 13)) then some (3, 0)
      else if (B.getD 8 0).toNat / 8 ≠ 0 then some (2, 3)
      else if (B.getD 8 0).getLsbD 2 = true ∧ (B.getD 8 0).getLsbD 1 = true then some (2, 4)
      else if s.params.maxBlock.toNat < (be32At B 4).toNat then some (1, 3)
      else if pathCode (B.getD 8 0) = 1 ∧ s.srcLen.toNat - 13 < 4 then some (2, 5)
      else none
  | .ctrRepl =>
    if ¬ BlockOk s s.aux then some (1, 2)
    else rangeError s
      (if s.srcLen.toNat ≠ 1 then some (12, 4)
       else if s.dstCap.toNat < s.aux.toNat then some (10, 0)
       else none)

/-- The commands whose rule writes BUF (20_memory.md R65, R66). -/
def writesBuf : Instr → Bool
  | .bwtFwd | .bwtInv | .hufWtable | .bitPack | .bitUnpack | .ctrFrame _ | .ctrRepl => true
  | _ => false

/-- The commands that read a source range (30_encoding.md R81). -/
def readsSrc : Instr → Bool
  | .crcUpdate | .bwtFwd | .bwtInv | .hufCount | .hufRtable | .bitPack | .bitUnpack | .ctrFrame _ | .ctrUnframe
  | .ctrRepl => true
  | _ => false

end Sys2Proof.Spec

open Sys2Proof Sys2Proof.Machine Sys2Proof.Spec

/-! ### Reset, invariants -/

/-- 70_reset_and_hazards.md R230, R231: a hardware reset in any state puts every register and table entry at its reset column
and abandons a running command. The last clause, that BUF lists no byte, is the model's own form of "every byte has an
unspecified value": an unlisted byte reads as a free value (logs 3 and 15). -/
def Obligations.HardwareResetRestoresRegisters : Prop :=
  ∀ (s : State) (rest : List HostEvent), s.host = .hwReset :: rest →
    ∃ t, step s = .next t ∧ (∀ r, readReg t r = resetColumn s.params r)
      ∧ t.status = ⟨false, false, false, false, false⟩ ∧ t.params = s.params ∧ t.host = rest
      ∧ ∀ a, t.buf.lookup a = none

/-- The state after reset has every register at its reset column (10_state.md R39) and is sound. -/
def Obligations.ResetStateIsSound : Prop :=
  (∀ r, readReg State.reset r = resetColumn State.reset.params r) ∧ Inv State.reset ∧ CompleteTable State.reset.len

/-- 70_reset_and_hazards.md R232: a hardware reset and SRESET leave the same registers but for STATUS and CMD. -/
def Obligations.SresetMatchesHardwareReset : Prop :=
  ∀ (s t u : State) (rest : List HostEvent), exec .sreset s = .next t →
    step { s with host := .hwReset :: rest } = .next u →
    (∀ r, r ≠ .status → r ≠ .cmd → readReg t r = readReg u r)
      ∧ readReg u .status = 0 ∧ readReg t .status = 2 ∧ readReg u .cmd = 0 ∧ readReg t .cmd = 2

/-- Every step keeps the invariant. -/
def Obligations.StepKeepsInvariant : Prop := ∀ s t : State, Inv s → step s = .next t → Inv t

/-- Every step leaves a LEN table that is empty, a lone symbol of length 1, or a complete prefix code (43_huffman.md
R155, R157, R158). -/
def Obligations.StepKeepsCompleteTable : Prop :=
  ∀ s t : State, CompleteTable s.len → step s = .next t → CompleteTable t.len

/-! ### The register window and BUF, seen by the host -/

/-- 10_state.md R39: each register stands at its offset, and an aligned offset names at most the register that stands
there. -/
def Obligations.RegisterMapMatchesOffsets : Prop :=
  ((regAt 0x000 = some .id ∧ regAt 0x004 = some .cmd ∧ regAt 0x008 = some .status ∧ regAt 0x00C = some .errcode)
    ∧ (regAt 0x010 = some .srcAddr ∧ regAt 0x014 = some .srcLen ∧ regAt 0x018 = some .dstAddr
        ∧ regAt 0x01C = some .dstCap ∧ regAt 0x020 = some .aux)
    ∧ (regAt 0x024 = some .resLen ∧ regAt 0x028 = some .resAux ∧ regAt 0x02C = some .resAddr
        ∧ regAt 0x030 = some .resFlags ∧ regAt 0x034 = some .resPi)
    ∧ (regAt 0x038 = some .crcState ∧ regAt 0x03C = some .crcValue ∧ regAt 0x040 = some .nsym
        ∧ regAt 0x044 = some .maxlen))
  ∧ (∀ v : Byte, regAt (0x400 + 4 * v.toNat) = some (.freq v) ∧ regAt (0x800 + 4 * v.toNat) = some (.len v)
      ∧ regAt (0xC00 + 8 * v.toNat) = some (.codeLo v) ∧ regAt (0xC04 + 8 * v.toNat) = some (.codeHi v))
  ∧ (∀ off r, off % 4 = 0 → regAt off = some r → regOffset r = off)
  ∧ ∀ off, off % 4 = 0 → 0x044 < off → off < 0x400 ∨ 0x1400 ≤ off → regAt off = none

/-- 10_state.md R43: the three forms of a register access that reaches no register. The field `hostData`, which takes the
value read, is the model's own (log 12). -/
def Obligations.RegisterAccessForms : Prop :=
  ∀ (s : State) (off width : Nat) (v : Word) (rest : List HostEvent),
    (¬ (width = 4 ∧ off % 4 = 0) →
      step { s with host := .regRead off width :: rest } = .refused .registerAccess
        ∧ step { s with host := .regWrite off width v :: rest } = .refused .registerAccess)
    ∧ (width = 4 → off % 4 = 0 → 0x044 < off → off < 0x400 →
      step { s with host := .regRead off width :: rest } = .next { s with hostData := 0, host := rest }
        ∧ step { s with host := .regWrite off width v :: rest } = .next { s with host := rest })

/-- 10_state.md R44: a host write to a read-only register is ignored, whatever the state. -/
def Obligations.ReadOnlyWritesIgnored : Prop :=
  ∀ (s : State) (off : Nat) (v : Word) (rest : List HostEvent),
    off % 4 = 0 → off < 0x1400 → off ≤ 0x044 ∨ 0x400 ≤ off → ¬ WritableOffset off →
    step { s with host := .regWrite off 4 v :: rest } = .next { s with host := rest }

/-- 10_state.md R48, R29: while BUSY is 1 a host write to a writable register is dropped and sets WBUSY. The field
`spanDrop` is the model's own (log 8). -/
def Obligations.BusyWritesDropped : Prop :=
  ∀ (s : State) (off : Nat) (v : Word) (rest : List HostEvent),
    s.status.busy = true → off % 4 = 0 → WritableOffset off →
    step { s with host := .regWrite off 4 v :: rest }
      = .next { s with host := rest, spanDrop := true, status := { s.status with wbusy := true } }

/-- 10_state.md R31 to R33, R36, R41: with BUSY 0, a host write to an operand register, CRC_STATE or a FREQ entry is
read back, CRC_VALUE follows CRC_STATE, and nothing else changes. -/
def Obligations.RegisterWritesReadBack : Prop :=
  ∀ (s : State) (r : Reg) (v : Word) (rest : List HostEvent),
    s.status.busy = false → WritableOffset (regOffset r) → r ≠ .cmd →
    ∃ t, step { s with host := .regWrite (regOffset r) 4 v :: rest } = .next t
      ∧ readReg t r = v
      ∧ (∀ r', r' ≠ r → r' ≠ .crcValue → readReg t r' = readReg s r')
      ∧ readReg t .crcValue = (if r = .crcState then v ^^^ 0xFFFFFFFF else readReg s .crcValue)
      ∧ t.status = s.status ∧ t.buf = s.buf ∧ t.params = s.params ∧ t.host = rest

/-- 10_state.md R39, R26: a host read returns the register's value and changes nothing else; while BUSY is 1 a register
whose value is unspecified returns the next free value (the model's way of leaving it open, log 5). -/
def Obligations.RegisterReadsReturnValue : Prop :=
  ∀ (s : State) (r : Reg) (rest : List HostEvent),
    ((s.status.busy = false ∨ ¬ UnspecifiedWhileBusy r) →
      step { s with host := .regRead (regOffset r) 4 :: rest }
        = .next { s with hostData := readReg s r, host := rest })
    ∧ (s.status.busy = true → UnspecifiedWhileBusy r →
      step { s with host := .regRead (regOffset r) 4 :: rest }
        = .next { s with hostData := Config.freeWord s.fresh, fresh := s.fresh + 1, host := rest })

/-- 10_state.md R24, R26: the places of the STATUS bits; while BUSY is 1, DONE and ERR read 0; bits 31:5 read 0. -/
def Obligations.StatusBitsInPlace : Prop :=
  ∀ s : State,
    (readReg s .status).getLsbD 0 = s.status.busy
      ∧ (readReg s .status).getLsbD 1 = (!s.status.busy && s.status.done)
      ∧ (readReg s .status).getLsbD 2 = (!s.status.busy && s.status.err)
      ∧ (readReg s .status).getLsbD 3 = s.status.warn
      ∧ (readReg s .status).getLsbD 4 = s.status.wbusy
      ∧ ∀ k, 5 ≤ k → (readReg s .status).getLsbD k = false

/-- 10_state.md R37: CRC_VALUE, at offset 0x03C, reads CRC_STATE xor 0xFFFFFFFF, and 0 at reset; a host write to it is
ignored. -/
def Obligations.CrcValueIsComplement : Prop :=
  regAt 0x03C = some .crcValue
    ∧ (∀ s : State, readReg s .crcValue = readReg s .crcState ^^^ 0xFFFFFFFF)
    ∧ (∀ (s : State) (v : Word) (rest : List HostEvent),
        step { s with host := .regWrite 0x03C 4 v :: rest } = .next { s with host := rest })
    ∧ readReg State.reset .crcValue = 0

/-- 20_memory.md R60 to R62: with BUSY 0 a host write to a byte of BUF is read back and changes only that byte; a read
changes nothing and returns the byte. -/
def Obligations.BufAccessReadsBack : Prop :=
  ∀ (s : State) (addr : Word) (b : Byte) (rest : List HostEvent),
    s.status.busy = false → addr.toNat ≤ s.params.bufLast.toNat →
    (∃ t, step { s with host := .bufWrite addr b :: rest } = .next t
      ∧ t = { s with buf := t.buf, host := rest }
      ∧ readBuf t addr.toNat = b ∧ ∀ a, a ≠ addr.toNat → readBuf t a = readBuf s a)
    ∧ step { s with host := .bufRead addr :: rest }
        = .next { s with hostData := (readBuf s addr.toNat).setWidth 32, host := rest }

/-- 20_memory.md R60, R73, 10_state.md R43, 70_reset_and_hazards.md R241: a step stops only on a host access, and exactly
on these. The byte ranges of a running command are those of logs 6 and 10. -/
def Obligations.StepStopsExactlyOnHostAccess : Prop :=
  ∀ s : State,
    (step s = .fault .bufAddress ↔
      ∃ addr rest, (s.host = .bufRead addr :: rest ∨ ∃ b, s.host = .bufWrite addr b :: rest)
        ∧ s.params.bufLast.toNat < addr.toNat)
    ∧ (step s = .fault .hostRace ↔
      ∃ addr rest i, (s.host = .bufRead addr :: rest ∨ ∃ b, s.host = .bufWrite addr b :: rest)
        ∧ addr.toNat ≤ s.params.bufLast.toNat ∧ s.status.busy = true ∧ encode i = s.cmd
        ∧ (readsSrc i = true ∧ s.srcAddr.toNat ≤ addr.toNat ∧ addr.toNat < s.srcAddr.toNat + s.srcLen.toNat
          ∨ writesBuf i = true ∧ s.dstAddr.toNat ≤ addr.toNat ∧ addr.toNat < s.dstAddr.toNat + s.dstCap.toNat))
    ∧ (step s = .refused .registerAccess ↔
      ∃ off width rest, (s.host = .regRead off width :: rest ∨ ∃ v, s.host = .regWrite off width v :: rest)
        ∧ ¬ (width = 4 ∧ off % 4 = 0))
    ∧ (step s = .refused .outsideWindow ↔
      ∃ off rest, (s.host = .regRead off 4 :: rest ∨ ∃ v, s.host = .regWrite off 4 v :: rest)
        ∧ off % 4 = 0 ∧ 0x1400 ≤ off)
    ∧ ∀ m, step s ≠ .refused (.notModelled m)

/-! ### Command words, acceptance, the step -/

/-- 30_encoding.md R80, R81, R83, R84: a word decodes to a command exactly when it is that command's word. -/
def Obligations.DecodeExactlyEncode : Prop := ∀ (w : Word) (i : Instr), decode w = .ok i ↔ encode i = w

/-- 30_encoding.md R81: words written out from the table decode to their commands. -/
def Obligations.TableWordsDecode : Prop :=
  decode 0b00000000000000000000000000000000 = .ok .nop
    ∧ decode 0b00000000000000000000000000010001 = .ok .crcUpdate
    ∧ decode 0b00000000000000000000000000100001 = .ok .bwtInv
    ∧ decode 0b00000000000000000000000000110010 = .ok .hufWtable
    ∧ decode 0b00000000000000000000000001000001 = .ok .bitUnpack
    ∧ decode 0b00000000000000000000010101010000 = .ok (.ctrFrame 0x05)

/-- 30_encoding.md R83: with BUSY 0, a word that is no command ends as ILLEGAL_COMMAND, detail 1 for a reserved opcode
and 2 for reserved bits, with its opcode field in ERRCODE; while ERR is 1 it raises nothing. -/
def Obligations.IllegalWordsRaise : Prop :=
  ∀ (s : State) (w : Word) (rest : List HostEvent), s.status.busy = false →
    let opc := w.toNat % 0x100
    let listed := opc ∈ [0x00, 0x01, 0x02, 0x10, 0x11, 0x20, 0x21, 0x30, 0x31, 0x32, 0x33, 0x40, 0x41, 0x50, 0x51, 0x52]
    let stray := w.toNat / 0x10000 ≠ 0 ∨ w.toNat / 0x100 % 0x100 ≠ 0 ∧ opc ≠ 0x50
    let after d := errorState opc 7 d { s with cmd := w, spanDrop := false, host := rest }
    (s.status.err = false → ¬ listed → step { s with host := .regWrite 0x004 4 w :: rest } = .next (after 1))
    ∧ (s.status.err = false → listed → stray → step { s with host := .regWrite 0x004 4 w :: rest } = .next (after 2))
    ∧ (s.status.err = true → ¬ listed ∨ stray →
      step { s with host := .regWrite 0x004 4 w :: rest } = .next { s with host := rest })

/-- 40_control.md R120, R121: with BUSY 0, a word that the engine accepts and that decodes to a command runs that
command, from the state in which CMD holds the word, BUSY is 1, and DONE and WARN are 0. -/
def Obligations.StepRunsDecodedCommand : Prop :=
  ∀ (s : State) (w : Word) (i : Instr) (rest : List HostEvent),
    s.status.busy = false → s.status.err = false ∨ w = 0x00000001 ∨ w = 0x00000002 → decode w = .ok i →
    step { s with host := .regWrite 0x004 4 w :: rest }
      = exec i { s with
          host := rest, cmd := w, spanDrop := false
          status := ⟨true, false, s.status.err, false, s.status.wbusy⟩ }

/-- 40_control.md R122: a discarded word changes no state at all. -/
def Obligations.DiscardedWordChangesNothing : Prop :=
  ∀ (s : State) (w : Word) (rest : List HostEvent),
    s.status.busy = false → s.status.err = true → w ≠ 0x00000001 → w ≠ 0x00000002 →
    step { s with host := .regWrite 0x004 4 w :: rest } = .next { s with host := rest }
      ∧ step { s with host := .issueSpan w :: rest } = .next { s with host := rest }

/-- 60_exceptions.md R226, 70_reset_and_hazards.md R242, R243: with no event to come, an idle engine keeps all state and
a running command completes. That it completes in this one step is the model's choice (log 1): the spec says only that it
takes a finite time. -/
def Obligations.EmptyScheduleStep : Prop :=
  ∀ s : State, s.host = [] →
    (s.status.busy = false → step s = .next s)
    ∧ (s.status.busy = true → ∃ t, step s = .next t ∧ t.status.busy = false)

/-- 20_memory.md R72, R73, R75: a command that runs for a span, in which the host writes a byte outside the command's
ranges, ends in the state in which the command ran alone, at the instant of its acceptance, and the byte was written
after it. -/
def Obligations.SpanEqualsAtomicCommand : Prop :=
  ∀ (s : State) (w : Word) (x : Word) (b : Byte) (rest : List HostEvent),
    Inv s → s.status.busy = false → x.toNat ≤ s.params.bufLast.toNat → inFlight (accept w s) x.toNat = false →
    Host.Core.run core 3 { s with host := .issueSpan w :: .bufWrite x b :: .complete :: rest }
      = Host.Core.run core 2 { s with host := .regWrite 0x004 4 w :: .bufWrite x b :: rest }

/-! ### Control and checksum -/

/-- 40_control.md R125: NOP changes STATUS only; as a step it also leaves its word in CMD and clears WARN (R121). The fields
`host` and `spanDrop` are the model's own (logs 1, 8). -/
def Obligations.NopRule : Prop :=
  ∀ (s : State) (rest : List HostEvent),
    exec .nop s = .next { s with status := doneStatus s.status }
    ∧ (s.status.busy = false → s.status.err = false →
      step { s with host := .regWrite 0x004 4 0x00000000 :: rest }
        = .next { s with
            host := rest, cmd := 0, spanDrop := false
            status := ⟨false, true, false, false, s.status.wbusy⟩ })

/-- 40_control.md R126: ERR.CLEAR clears ERR, WBUSY and ERRCODE, with ERR 0 or 1 before. The fields `host` and `spanDrop` are
the model's own (logs 1, 8). -/
def Obligations.ErrClearRule : Prop :=
  ∀ (s : State) (rest : List HostEvent),
    exec .errClear s = .next { s with errcode := 0, status := ⟨false, true, false, s.status.warn, false⟩ }
    ∧ (s.status.busy = false →
      step { s with host := .regWrite 0x004 4 0x00000001 :: rest }
        = .next { s with
            host := rest, cmd := 1, spanDrop := false, errcode := 0
            status := ⟨false, true, false, false, false⟩ })

/-- 40_control.md R127: SRESET, with ERR 0 or 1 before. The fields `bufEpoch`, `host` and `hostData`, which it keeps, are
the model's own (logs 3, 1, 12). -/
def Obligations.SresetRule : Prop :=
  ∀ s : State, ∃ t, exec .sreset s = .next t
    ∧ (∀ r, readReg t r = if r = .cmd ∨ r = .status then 2 else resetColumn s.params r)
    ∧ t.buf = s.buf ∧ t.bufEpoch = s.bufEpoch ∧ t.params = s.params ∧ t.host = s.host ∧ t.hostData = s.hostData
    ∧ ∀ rest, s.status.busy = false →
      step { s with host := .regWrite 0x004 4 0x00000002 :: rest } = .next { t with host := rest }

/-- 41_crc.md R131: CRC.INIT. -/
def Obligations.CrcInitRule : Prop :=
  ∀ s : State, exec .crcInit s
    = .next { s with crcState := 0xFFFFFFFF, resLen := 0, resAux := 0, status := doneStatus s.status }

/-- 41_crc.md R132: CRC.UPDATE, in BUF and outside it. -/
def Obligations.CrcUpdateRule : Prop :=
  ∀ s : State,
    (InBuf s.params s.srcAddr s.srcLen →
      exec .crcUpdate s
        = .next { s with
            crcState := crcFold s.crcState (memRead s s.srcAddr.toNat s.srcLen.toNat)
            resLen := s.srcLen
            resAux := crcFold s.crcState (memRead s s.srcAddr.toNat s.srcLen.toNat) ^^^ 0xFFFFFFFF
            status := doneStatus s.status })
    ∧ (¬ InBuf s.params s.srcAddr s.srcLen → exec .crcUpdate s = .next (errorState 0x11 8 1 s))

/-- 41_crc.md R130: the check values. -/
def Obligations.CrcCheckValues : Prop :=
  crc32 [0x31, 0x32, 0x33, 0x34, 0x35, 0x36, 0x37, 0x38, 0x39] = 0xCBF43926 ∧ crc32 [] = 0
    ∧ crcFold 0xFFFFFFFF [0xFF, 0xFF, 0xFF, 0xFF] = 0

/-- 41_crc.md R133: updates over two consecutive ranges leave the CRC_STATE of one update over both. -/
def Obligations.CrcUpdatesStream : Prop :=
  ∀ (s : State) (n m : Nat), s.srcAddr.toNat + n + m < 2 ^ 32 → s.srcAddr.toNat + n + m ≤ s.params.bufLast.toNat + 1 →
    ∃ t u v,
      exec .crcUpdate { s with srcLen := BitVec.ofNat 32 n } = .next t
      ∧ exec .crcUpdate { t with srcAddr := BitVec.ofNat 32 (s.srcAddr.toNat + n), srcLen := BitVec.ofNat 32 m } = .next u
      ∧ exec .crcUpdate { s with srcLen := BitVec.ofNat 32 (n + m) } = .next v
      ∧ u.crcState = v.crcState ∧ u.resAux = v.resAux

/-! ### Block transform -/

/-- 42_bwt.md R140, R141: the forward transform of a block writes the last column of its sorted rotations and gives the
rank of rotation 0; where one of its checks fails, it ends with that error and changes nothing else. -/
def Obligations.BwtForwardRule : Prop :=
  ∀ s : State,
    (BlockOk s s.srcLen → RangesOk s → s.srcLen.toNat ≤ s.dstCap.toNat →
      ∃ (t : State) (σ : List Nat) (p : Nat), exec .bwtFwd s = .next t
        ∧ σ.Perm (List.range s.srcLen.toNat) ∧ σ.Pairwise (RotBefore (srcBytes s))
        ∧ (s.srcLen.toNat = 0 → p = 0) ∧ (0 < s.srcLen.toNat → σ[p]? = some 0)
        ∧ Wrote s t (σ.map fun i => (srcBytes s).getD ((i + s.srcLen.toNat - 1) % s.srcLen.toNat) 0) s.srcLen
            (BitVec.ofNat 32 p))
    ∧ ∀ c d, commandError s .bwtFwd = some (c, d) → exec .bwtFwd s = .next (errorState 0x20 c d s)

/-- 42_bwt.md R142: the inverse transform walks the LF-mapping backward from the primary index; where one of its checks
fails, the return of the walk among them, it ends with that error and changes nothing else. -/
def Obligations.BwtInverseRule : Prop :=
  ∀ s : State,
    (BlockOk s s.srcLen → RangesOk s → s.srcLen.toNat ≤ s.dstCap.toNat →
      s.aux.toNat < s.srcLen.toNat ∨ s.srcLen.toNat = 0 ∧ s.aux.toNat = 0 →
      (lf (srcBytes s))^[s.srcLen.toNat] s.aux.toNat = s.aux.toNat →
      ∃ t, exec .bwtInv s = .next t
        ∧ Wrote s t
            (((List.range s.srcLen.toNat).map fun k => (srcBytes s).getD ((lf (srcBytes s))^[k] s.aux.toNat) 0).reverse)
            s.srcLen s.aux)
    ∧ ∀ c d, commandError s .bwtInv = some (c, d) → exec .bwtInv s = .next (errorState 0x21 c d s)

/-- 42_bwt.md R143: the LF-mapping is a permutation of the rows, whatever the permuted block. -/
def Obligations.LfMapIsPermutation : Prop :=
  ∀ L : List Byte, ((List.range L.length).map (lfMap L)).Perm (List.range L.length)

/-- 42_bwt.md R144: BWT.INV of what BWT.FWD wrote, with the primary index it gave, succeeds and restores the block. -/
def Obligations.BwtRoundTrip : Prop :=
  ∀ (s t : State) (d c : Word), exec .bwtFwd s = .next t → t.status.done = true →
    InBuf s.params d c → ¬ Share s.dstAddr s.srcLen d c → s.srcLen.toNat ≤ c.toNat →
    ∃ u, exec .bwtInv { t with srcAddr := s.dstAddr, srcLen := s.srcLen, dstAddr := d, dstCap := c, aux := t.resAux }
        = .next u
      ∧ u.status.done = true ∧ memRead u d.toNat s.srcLen.toNat = srcBytes s

/-! ### Huffman tables -/

/-- 43_huffman.md R150: the frequencies of a block, which add up to its length; the number of distinct byte values; and
the two errors. -/
def Obligations.HufCountRule : Prop :=
  ∀ s : State,
    (BlockOk s s.srcLen → InBuf s.params s.srcAddr s.srcLen →
      ∃ t, exec .hufCount s = .next t
        ∧ t = { s with freq := t.freq, resLen := s.srcLen, resAux := t.resAux, status := doneStatus s.status }
        ∧ (∀ v, (t.freq.get v).toNat = ((srcBytes s).filter fun b => b = v).length)
        ∧ t.resAux.toNat = (srcBytes s).toFinset.card
        ∧ (allBytes.map fun v => (t.freq.get v).toNat).sum = s.srcLen.toNat)
    ∧ (¬ BlockOk s s.srcLen → exec .hufCount s = .next (errorState 0x30 1 1 s))
    ∧ (BlockOk s s.srcLen → ¬ InBuf s.params s.srcAddr s.srcLen → exec .hufCount s = .next (errorState 0x30 8 1 s))

/-- 43_huffman.md R151, R154: HUF.BUILD installs the code lengths of the greedy construction, merging the two least nodes
by (weight, key) with the smaller key kept, with CODE, NSYM and MAXLEN in agreement, wherever no length exceeds 64. -/
def Obligations.HufBuildRule : Prop :=
  ∀ s : State,
    (∀ v, (huffLengths s.freq).get v = huffLength s.freq v)
    ∧ ((∀ v, huffLength s.freq v ≤ 64) →
      ∃ t, exec .hufBuild s = .next t
        ∧ t = { s with
            len := t.len, code := canon t.len, nsym := t.nsym, maxlen := t.maxlen, resLen := 0, resAux := t.nsym
            status := doneStatus s.status }
        ∧ (∀ v, (t.len.get v).toNat = huffLength s.freq v)
        ∧ t.nsym.toNat = (symbols t.len).length
        ∧ (∀ v, (t.len.get v).toNat ≤ t.maxlen.toNat) ∧ (∃ v, (t.len.get v).toNat = t.maxlen.toNat))

/-- 43_huffman.md R155: a lone byte value gets a 1-bit code, and no byte value at all gives the empty table. -/
def Obligations.LoneSymbolGetsOneBit : Prop :=
  ∀ s : State,
    (∀ v, s.freq.get v ≠ 0 → (∀ u, s.freq.get u ≠ 0 → u = v) →
      ∃ t, exec .hufBuild s = .next t ∧ t.len.get v = 1 ∧ (∀ u, u ≠ v → t.len.get u = 0) ∧ (∀ u, t.code.get u = 0)
        ∧ t.nsym = 1 ∧ t.maxlen = 1 ∧ t.resAux = 1)
    ∧ ((∀ u, s.freq.get u = 0) →
      ∃ t, exec .hufBuild s = .next t ∧ (∀ u, t.len.get u = 0 ∧ t.code.get u = 0)
        ∧ t.nsym = 0 ∧ t.maxlen = 0 ∧ t.resAux = 0)

/-- 43_huffman.md R158 (c): no code length of any frequency table exceeds 57, so HUF.BUILD never raises CODE_TOO_LONG. -/
def Obligations.HuffmanDepthBound : Prop :=
  (∀ (F : Table Word) (v : Byte), (huffLengths F).get v ≤ 57)
    ∧ ∀ s : State, ∃ t, exec .hufBuild s = .next t ∧ t.status = doneStatus s.status

/-- 43_huffman.md R156, R158: in a complete table every code fits in its length and no code is a prefix of another. -/
def Obligations.CanonicalCodesPrefixFree : Prop :=
  ∀ lens : Table Byte, CompleteTable lens →
    (∀ v, ((canon lens).get v).toNat < 2 ^ (lens.get v).toNat)
    ∧ ∀ u v, u ≠ v → 0 < (lens.get u).toNat → (lens.get u).toNat ≤ (lens.get v).toNat →
      ((canon lens).get v).toNat / 2 ^ ((lens.get v).toNat - (lens.get u).toNat) ≠ ((canon lens).get u).toNat

/-- 43_huffman.md R156: the canonical code in closed form. The code of a byte value is the sum, over the coded byte values
before it in the order (length, value), of 2 to the power of the difference of the lengths. -/
def Obligations.CanonicalCodeIsPrefixSum : Prop :=
  ∀ (lens : Table Byte) (v : Byte), CompleteTable lens → 0 < (lens.get v).toNat →
    ((canon lens).get v).toNat
      = (((symbols lens).filter fun u => CanonBefore lens u v).map fun u =>
          2 ^ ((lens.get v).toNat - (lens.get u).toNat)).sum

/-- 43_huffman.md R152, 30_encoding.md R97: HUF.WTABLE writes the number of symbols less one and the pairs of byte value
and length in ascending order; an empty table writes nothing; and the two errors. NSYM agrees with LEN in every sound state
(10_state.md R38). -/
def Obligations.HufWtableRule : Prop :=
  ∀ s : State, s.nsym.toNat = (symbols s.len).length →
    (InBuf s.params s.dstAddr s.dstCap → s.nsym.toNat = 0 →
      exec .hufWtable s = .next { s with resLen := 0, resAux := 0, status := doneStatus s.status })
    ∧ (InBuf s.params s.dstAddr s.dstCap → s.nsym.toNat ≠ 0 → 1 + 2 * s.nsym.toNat ≤ s.dstCap.toNat →
      ∃ t, exec .hufWtable s = .next t
        ∧ (clt s.len).length = 1 + 2 * s.nsym.toNat
        ∧ Wrote s t (clt s.len) (BitVec.ofNat 32 (1 + 2 * s.nsym.toNat)) s.nsym)
    ∧ (InBuf s.params s.dstAddr s.dstCap → s.nsym.toNat ≠ 0 → s.dstCap.toNat < 1 + 2 * s.nsym.toNat →
      exec .hufWtable s = .next (errorState 0x32 10 0 s))
    ∧ (¬ InBuf s.params s.dstAddr s.dstCap → exec .hufWtable s = .next (errorState 0x32 8 2 s))

/-- 43_huffman.md R153, R157, R158 (a): HUF.RTABLE reads the serialized form of any complete table, whatever bytes follow
it, and installs that table. -/
def Obligations.HufRtableReadsTable : Prop :=
  ∀ (s : State) (lens : Table Byte) (junk : List Byte), InBuf s.params s.srcAddr s.srcLen →
    CompleteTable lens → symbols lens ≠ [] → srcBytes s = clt lens ++ junk →
    ∃ t, exec .hufRtable s = .next t
      ∧ t = { s with
          len := lens, code := canon lens, nsym := BitVec.ofNat 32 (symbols lens).length, maxlen := t.maxlen
          resLen := BitVec.ofNat 32 (1 + 2 * (symbols lens).length), resAux := BitVec.ofNat 32 (symbols lens).length
          status := doneStatus s.status }
      ∧ (∀ v, (lens.get v).toNat ≤ t.maxlen.toNat) ∧ ∃ v, (lens.get v).toNat = t.maxlen.toNat

/-- 43_huffman.md R153, R157: HUF.RTABLE empties the table and raises INVALID_CODE_TABLE at the first failing check: 1 for
missing bytes; in the first bad pair, 2 for a byte value that does not ascend, 3 and 4 for a length of 0 or above 64; 5 for
a lone symbol of another length than 1; 6 and 7 for a Kraft sum above or below 1. -/
def Obligations.HufRtableErrors : Prop :=
  ∀ s : State, InBuf s.params s.srcAddr s.srcLen →
    let failed d := errorState 0x33 5 d
      { s with len := Table.fill 0, code := Table.fill 0, nsym := 0, maxlen := 0 }
    let pairsOk (ps : List (Byte × Byte)) :=
      ps.Pairwise (fun p q => p.1.toNat < q.1.toNat) ∧ ∀ p ∈ ps, 0 < p.2.toNat ∧ p.2.toNat ≤ 64
    (s.srcLen.toNat = 0 ∨ s.srcLen.toNat < 3 + 2 * (readBuf s s.srcAddr.toNat).toNat →
      exec .hufRtable s = .next (failed 1))
    ∧ (∀ (k v l : Byte) (ps : List (Byte × Byte)) (more : List Byte), pairsOk ps →
      srcBytes s = k :: ps.flatMap (fun p => [p.1, p.2]) ++ v :: l :: more →
      ps.length ≤ k.toNat → 3 + 2 * k.toNat ≤ s.srcLen.toNat →
      ((∃ p ∈ ps, v.toNat ≤ p.1.toNat) → exec .hufRtable s = .next (failed 2))
      ∧ ((∀ p ∈ ps, p.1.toNat < v.toNat) →
        (l = 0 → exec .hufRtable s = .next (failed 3)) ∧ (64 < l.toNat → exec .hufRtable s = .next (failed 4))))
    ∧ ∀ (ps : List (Byte × Byte)) (junk : List Byte), pairsOk ps → ps ≠ [] → ps.length ≤ 256 →
      srcBytes s = BitVec.ofNat 8 (ps.length - 1) :: ps.flatMap (fun p => [p.1, p.2]) ++ junk →
      (ps.length = 1 → (∀ p ∈ ps, p.2 ≠ 1) → exec .hufRtable s = .next (failed 5))
      ∧ (2 ≤ ps.length → 2 ^ 64 < (ps.map fun p => 2 ^ (64 - p.2.toNat)).sum → exec .hufRtable s = .next (failed 6))
      ∧ (2 ≤ ps.length → (ps.map fun p => 2 ^ (64 - p.2.toNat)).sum < 2 ^ 64 → exec .hufRtable s = .next (failed 7))

/-! ### Bit packing -/

/-- 44_bitpack.md R170, 30_encoding.md R99, 20_memory.md R68: BIT.PACK writes the codes of the block, most significant bit
first, padded with zero bits to a whole byte. -/
def Obligations.BitPackRule : Prop :=
  ∀ s : State, BlockOk s s.srcLen → RangesOk s → (∀ v ∈ srcBytes s, s.len.get v ≠ 0) →
    bytesOfBits (bitsOfBlock s (srcBytes s)).length ≤ s.dstCap.toNat →
    ∃ (t : State) (out : List Byte) (pad : Nat), exec .bitPack s = .next t ∧ pad < 8
      ∧ streamBits out = bitsOfBlock s (srcBytes s) ++ List.replicate pad false
      ∧ Wrote s t out (BitVec.ofNat 32 (bytesOfBits (bitsOfBlock s (srcBytes s)).length)) (BitVec.ofNat 32 pad)

/-- 44_bitpack.md R170, 60_exceptions.md R210, R211: the first byte of the block that has no code, or whose code outgrows
DST_CAP, decides the error of BIT.PACK; no byte of BUF outside the destination range changes. -/
def Obligations.BitPackErrors : Prop :=
  ∀ (s : State) (pre post : List Byte) (v : Byte), BlockOk s s.srcLen → RangesOk s →
    srcBytes s = pre ++ v :: post → (∀ u ∈ pre, s.len.get u ≠ 0) →
    bytesOfBits (bitsOfBlock s pre).length ≤ s.dstCap.toNat →
    (s.len.get v = 0 →
      ∃ t, exec .bitPack s = .next t
        ∧ t = errorState 0x40 11 v.toNat { s with buf := t.buf, fresh := t.fresh }
        ∧ ∀ a, a < s.dstAddr.toNat ∨ s.dstAddr.toNat + s.dstCap.toNat ≤ a → readBuf t a = readBuf s a)
    ∧ (s.len.get v ≠ 0 → s.dstCap.toNat < bytesOfBits (bitsOfBlock s (pre ++ [v])).length →
      ∃ t, exec .bitPack s = .next t
        ∧ t = errorState 0x40 10 0 { s with buf := t.buf, fresh := t.fresh }
        ∧ ∀ a, a < s.dstAddr.toNat ∨ s.dstAddr.toNat + s.dstCap.toNat ≤ a → readBuf t a = readBuf s a)

/-- 44_bitpack.md R171 to R173: with a complete table, BIT.UNPACK of a stream that begins with the codes of a block of AUX
bytes writes that block and gives the bytes consumed, whatever bits follow. -/
def Obligations.BitUnpackRule : Prop :=
  ∀ (s : State) (X : List Byte) (after : List Bool), Inv s → CompleteTable s.len →
    BlockOk s s.aux → RangesOk s → s.aux.toNat ≤ s.dstCap.toNat →
    X.length = s.aux.toNat → (∀ v ∈ X, s.len.get v ≠ 0) →
    streamBits (srcBytes s) = bitsOfBlock s X ++ after →
    ∃ t, exec .bitUnpack s = .next t
      ∧ Wrote s t X s.aux (BitVec.ofNat 32 (bytesOfBits (bitsOfBlock s X).length))

/-- 44_bitpack.md R172, R171: when BIT.UNPACK raises CORRUPT_PAYLOAD, with a complete table and every earlier check passed.
Detail 1: the stream holds the codes of fewer than AUX bytes and then runs out, at once or within a code. Detail 2: with a
lone-symbol table, a 1 bit where a code is due. With two or more symbols it either succeeds or raises detail 1. -/
def Obligations.BitUnpackErrors : Prop :=
  ∀ s : State, Inv s → CompleteTable s.len → BlockOk s s.aux → RangesOk s → s.aux.toNat ≤ s.dstCap.toNat →
    (∀ (X : List Byte) (v : Byte) (tail : List Bool), X.length < s.aux.toNat → (∀ u ∈ X, s.len.get u ≠ 0) →
      s.len.get v ≠ 0 → tail <+: bitsOfCode s v → tail ≠ bitsOfCode s v →
      streamBits (srcBytes s) = bitsOfBlock s X ++ tail →
      exec .bitUnpack s = .next (errorState 0x41 6 1 s))
    ∧ (∀ (v : Byte) (k : Nat) (after : List Bool), symbols s.len = [v] → k < s.aux.toNat →
      streamBits (srcBytes s) = List.replicate k false ++ true :: after →
      exec .bitUnpack s = .next (errorState 0x41 6 2 s))
    ∧ (2 ≤ (symbols s.len).length →
      ∃ t, exec .bitUnpack s = .next t ∧ (t.status.done = true ∨ t = errorState 0x41 6 1 s))

/-- 44_bitpack.md R174: BIT.UNPACK of what BIT.PACK wrote, with the same table and the number of packed bytes, gives the
block back and consumes exactly the packed bytes. -/
def Obligations.PackUnpackRoundTrip : Prop :=
  ∀ (s t : State) (d c : Word), Inv s → CompleteTable s.len → exec .bitPack s = .next t → t.status.done = true →
    InBuf s.params d c → ¬ Share s.dstAddr t.resLen d c → s.srcLen.toNat ≤ c.toNat →
    ∃ u, exec .bitUnpack { t with srcAddr := s.dstAddr, srcLen := t.resLen, dstAddr := d, dstCap := c, aux := s.srcLen }
        = .next u
      ∧ u.status.done = true ∧ memRead u d.toNat s.srcLen.toNat = srcBytes s ∧ u.resAux = t.resLen

/-! ### Container -/

/-- 45_container.md R180, R182: CTR.FRAME writes the 13-byte header and the payload; where one of its checks fails, it
ends with that error and changes nothing else. -/
def Obligations.CtrFrameRule : Prop :=
  ∀ (s : State) (f : Byte),
    (BlockOk s s.aux → RangesOk s → FlagsOk f → (f.getLsbD 2 = true → s.aux = s.srcLen) →
      13 + s.srcLen.toNat ≤ s.dstCap.toNat →
      ∃ t, exec (.ctrFrame f) s = .next t
        ∧ Wrote s t (containerBytes s.params.magic s.aux (crc32 (srcBytes s)) f (srcBytes s))
            (BitVec.ofNat 32 (13 + s.srcLen.toNat)) (crc32 (srcBytes s)))
    ∧ ∀ c d, commandError s (.ctrFrame f) = some (c, d) → exec (.ctrFrame f) s = .next (errorState 0x50 c d s)

/-- 45_container.md R184, 30_encoding.md R93: CTR.UNFRAME of a valid container gives its decode input, size, flags with
the path code, and primary index; WARN reports a RAW size mismatch. RES_ADDR is stated wherever a 32-bit register holds
the address (log 11). -/
def Obligations.CtrUnframeRule : Prop :=
  ∀ (s : State) (P : List Byte) (z : Word) (f : Byte), InBuf s.params s.srcAddr s.srcLen →
    srcBytes s = containerBytes s.params.magic z (crc32 P) f P → FlagsOk f → BlockOk s z →
    (pathCode f = 1 → 4 ≤ P.length) →
    let skip := if pathCode f = 1 then 17 else 13
    ∃ t, exec .ctrUnframe s = .next t
      ∧ t = { s with
          resLen := BitVec.ofNat 32
            (if pathCode f = 3 then min P.length z.toNat else if pathCode f = 1 then P.length - 4 else P.length)
          resAux := z
          resAddr := t.resAddr
          resFlags := BitVec.ofNat 32 (f.toNat + 0x100 * pathCode f)
          resPi := if pathCode f = 1 then be32At P 0 else 0
          fresh := t.fresh
          status := ⟨false, true, s.status.err,
            if pathCode f = 3 ∧ P.length ≠ z.toNat then true else s.status.warn, s.status.wbusy⟩ }
      ∧ (s.srcAddr.toNat + skip < 2 ^ 32 →
        t.resAddr = BitVec.ofNat 32 (s.srcAddr.toNat + skip) ∧ t.fresh = s.fresh)

/-- 45_container.md R182 to R184: CTR.UNFRAME accepts what CTR.FRAME wrote, unless a TRANSFORM payload is too short, and
gives back the size and the flags. -/
def Obligations.FrameUnframeRoundTrip : Prop :=
  ∀ (s t : State) (f : Byte), exec (.ctrFrame f) s = .next t → t.status.done = true →
    (pathCode f = 1 → 4 ≤ s.srcLen.toNat) →
    ∃ u, exec .ctrUnframe { t with srcAddr := s.dstAddr, srcLen := t.resLen } = .next u
      ∧ u.status.done = true ∧ u.status.warn = s.status.warn
      ∧ u.resAux = s.aux ∧ u.resFlags = BitVec.ofNat 32 (f.toNat + 0x100 * pathCode f)
      ∧ u.resLen.toNat = (if pathCode f = 1 then s.srcLen.toNat - 4 else s.srcLen.toNat)
      ∧ u.buf = t.buf

/-- 45_container.md R187, R183 step 3: changing one byte of a container's payload, in one bit or in more, makes
CTR.UNFRAME fail with INTEGRITY; so does any other value in the checksum field. -/
def Obligations.PayloadCorruptionDetected : Prop :=
  ∀ (s : State) (A B : List Byte) (u v : Byte) (z c : Word) (f : Byte), InBuf s.params s.srcAddr s.srcLen →
    (u ≠ v →
      srcBytes s = containerBytes s.params.magic z (crc32 (A ++ u :: B)) f (A ++ v :: B) →
      exec .ctrUnframe s = .next (errorState 0x51 3 0 s))
    ∧ (srcBytes s = containerBytes s.params.magic z c f A → c ≠ crc32 A →
      exec .ctrUnframe s = .next (errorState 0x51 3 0 s))

/-- 45_container.md R186: CTR.REPL writes AUX copies of the one source byte; where one of its checks fails, it ends with
that error and changes nothing else. -/
def Obligations.CtrReplRule : Prop :=
  ∀ s : State,
    (BlockOk s s.aux → RangesOk s → s.srcLen.toNat = 1 → s.aux.toNat ≤ s.dstCap.toNat →
      ∃ t, exec .ctrRepl s = .next t
        ∧ Wrote s t (List.replicate s.aux.toNat (readBuf s s.srcAddr.toNat)) s.aux
            (BitVec.ofNat 32 (readBuf s s.srcAddr.toNat).toNat))
    ∧ ∀ c d, commandError s .ctrRepl = some (c, d) → exec .ctrRepl s = .next (errorState 0x52 c d s)

/-! ### Every command -/

/-- 60_exceptions.md R203, R201: a command reports the first failing check of its rule, and succeeds where none fails. -/
def Obligations.FirstFailingCheckDecides : Prop :=
  ∀ (i : Instr) (s : State), ∃ t, exec i s = .next t
    ∧ match commandError s i with
      | some (c, d) =>
        t.errcode = BitVec.ofNat 32 (c + d * 0x100 + (opcode i).toNat * 0x10000)
          ∧ t.status = ⟨false, false, true, false, s.status.wbusy⟩
      | none => t.status.busy = false ∧ t.status.done = true

/-- 60_exceptions.md R210: every effect of a failing command. HUF.RTABLE empties the table on INVALID_CODE_TABLE and
BIT.PACK leaves its destination range unspecified on UNCODED_SYMBOL and DST_OVERFLOW; nothing else changes. -/
def Obligations.ErrorCompletionRule : Prop :=
  ∀ (i : Instr) (s : State) (c d : Nat), commandError s i = some (c, d) →
    ∃ t, exec i s = .next t
      ∧ (if i = .hufRtable ∧ c = 5 then
          t = errorState (opcode i).toNat c d
            { s with len := Table.fill 0, code := Table.fill 0, nsym := 0, maxlen := 0 }
        else if i = .bitPack ∧ (c = 10 ∨ c = 11) then
          t = errorState (opcode i).toNat c d { s with buf := t.buf, fresh := t.fresh }
            ∧ ∀ a, a < s.dstAddr.toNat ∨ s.dstAddr.toNat + s.dstCap.toNat ≤ a → readBuf t a = readBuf s a
        else t = errorState (opcode i).toNat c d s)

/-- 60_exceptions.md R200: every command ends, either successfully or with exactly one error, which ERRCODE records. -/
def Obligations.EveryCommandEnds : Prop :=
  ∀ (i : Instr) (s : State), s.status.err = false →
    ∃ t, exec i s = .next t ∧ t.status.busy = false
      ∧ (t.status.done = true ∧ t.status.err = false
        ∨ t.status.done = false ∧ t.status.err = true
          ∧ 1 ≤ (t.errcode.extractLsb' 0 8).toNat ∧ (t.errcode.extractLsb' 0 8).toNat ≤ 13
          ∧ t.errcode.extractLsb' 16 8 = opcode i ∧ t.errcode.extractLsb' 24 8 = 0)

/-- 20_memory.md R65, R66: a command changes BUF only inside its destination range, and on success only in the first
RES_LEN bytes of it, at most DST_CAP. -/
def Obligations.CommandsWriteOnlyDestination : Prop :=
  ∀ (i : Instr) (s t : State), s.nsym.toNat = (symbols s.len).length → exec i s = .next t →
    (∀ a, readBuf t a ≠ readBuf s a →
      writesBuf i = true ∧ s.dstAddr.toNat ≤ a ∧ a < s.dstAddr.toNat + s.dstCap.toNat
        ∧ (t.status.done = true → a < s.dstAddr.toNat + t.resLen.toNat))
    ∧ (writesBuf i = true → t.status.done = true → t.resLen.toNat ≤ s.dstCap.toNat)

/-- 40_control.md R128: the frame of every command, register by register. -/
def Obligations.CommandRegisterFrame : Prop :=
  ∀ (i : Instr) (s t : State), exec i s = .next t →
    (t.params = s.params ∧ t.host = s.host ∧ t.hostData = s.hostData ∧ t.bufEpoch = s.bufEpoch)
    ∧ (i ≠ .sreset → t.cmd = s.cmd ∧ t.srcAddr = s.srcAddr ∧ t.srcLen = s.srcLen ∧ t.dstAddr = s.dstAddr
        ∧ t.dstCap = s.dstCap ∧ t.aux = s.aux)
    ∧ (i ≠ .sreset → i ≠ .crcInit → i ≠ .crcUpdate → t.crcState = s.crcState)
    ∧ (i ≠ .sreset → i ≠ .hufCount → t.freq = s.freq)
    ∧ (i ≠ .sreset → i ≠ .hufBuild → i ≠ .hufRtable →
        t.len = s.len ∧ t.code = s.code ∧ t.nsym = s.nsym ∧ t.maxlen = s.maxlen)
    ∧ (i ≠ .sreset → i ≠ .ctrUnframe → t.status.done = true →
        t.resAddr = s.resAddr ∧ t.resFlags = s.resFlags ∧ t.resPi = s.resPi)
    ∧ (i ≠ .sreset → i ≠ .errClear → t.status.wbusy = s.status.wbusy ∧ (t.status.done = true → t.errcode = s.errcode))
    ∧ (i ≠ .sreset → i ≠ .ctrUnframe → t.status.done = true → t.status.warn = s.status.warn)
    ∧ (i = .nop ∨ i = .errClear → t.resLen = s.resLen ∧ t.resAux = s.resAux)
    ∧ (writesBuf i = false → t.buf = s.buf)

/-- 10_state.md R47, 30_encoding.md R81: what a command gives depends only on the parameters, its operand registers, the
bytes of its source range, and CRC_STATE, FREQ, LEN or CODE where its rule reads them. NOP and ERR.CLEAR write no result
register. WARN, which acceptance clears in both states alike, is compared where they agree on it. RES_ADDR is compared
wherever a 32-bit register holds the address: beyond it the model leaves it free, its own choice (log 11). -/
def Obligations.ResultsDependOnlyOnOperands : Prop :=
  ∀ (i : Instr) (s s' t t' : State), Inv s → Inv s' →
    s.params = s'.params →
    (s.srcAddr = s'.srcAddr ∧ s.srcLen = s'.srcLen ∧ s.dstAddr = s'.dstAddr ∧ s.dstCap = s'.dstCap ∧ s.aux = s'.aux) →
    (readsSrc i = true → ∀ a, s.srcAddr.toNat ≤ a → a < s.srcAddr.toNat + s.srcLen.toNat → readBuf s a = readBuf s' a) →
    (i = .crcUpdate → s.crcState = s'.crcState) → (i = .hufBuild → s.freq = s'.freq) →
    (i = .hufWtable ∨ i = .bitPack ∨ i = .bitUnpack → s.len = s'.len) →
    exec i s = .next t → exec i s' = .next t' →
    t.status.done = t'.status.done
    ∧ (s.status.warn = s'.status.warn → t.status.warn = t'.status.warn)
    ∧ (i ≠ .nop → i ≠ .errClear → t.resLen = t'.resLen ∧ t.resAux = t'.resAux)
    ∧ (t.status.done = false → t.errcode = t'.errcode)
    ∧ (t.status.done = true → writesBuf i = true →
        ∀ a, s.dstAddr.toNat ≤ a → a < s.dstAddr.toNat + t.resLen.toNat → readBuf t a = readBuf t' a)
    ∧ (i = .crcInit ∨ i = .crcUpdate ∧ t.status.done = true → t.crcState = t'.crcState)
    ∧ (i = .hufCount → t.status.done = true → t.freq = t'.freq)
    ∧ (i = .hufBuild ∨ i = .hufRtable → t.status.done = true →
        t.len = t'.len ∧ t.code = t'.code ∧ t.nsym = t'.nsym ∧ t.maxlen = t'.maxlen)
    ∧ (i = .ctrUnframe → t.resFlags = t'.resFlags ∧ t.resPi = t'.resPi
        ∧ (s.srcAddr.toNat + (if t.resFlags.extractLsb' 8 2 = 1 then 17 else 13) < 2 ^ 32 → t.resAddr = t'.resAddr))

/-- 60_exceptions.md R214, 10_state.md R28, R30: while ERR is 1 no step replaces the recorded error; it is cleared only by
ERR.CLEAR, SRESET and a hardware reset. -/
def Obligations.ErrorsDoNotNest : Prop :=
  ∀ s t : State, Inv s → s.status.err = true → step s = .next t →
    t.status.err = true ∧ t.errcode = s.errcode
      ∨ t.status.err = false ∧ t.errcode = 0
        ∧ ((∃ rest, s.host = .hwReset :: rest)
          ∨ (∃ w rest, s.status.busy = false ∧ s.host = .regWrite 0x004 4 w :: rest
              ∧ (w = 0x00000001 ∨ w = 0x00000002))
          ∨ s.status.busy = true ∧ (s.cmd = 0x00000001 ∨ s.cmd = 0x00000002)
              ∧ (s.host = [] ∨ ∃ rest, s.host = .complete :: rest))

/-- 10_state.md R29: WBUSY, once set, is cleared only by ERR.CLEAR, SRESET and a hardware reset. -/
def Obligations.WbusyClearedOnlyByAcknowledge : Prop :=
  ∀ s t : State, s.status.wbusy = true → step s = .next t → t.status.wbusy = false →
    (∃ rest, s.host = .hwReset :: rest)
      ∨ (∃ w rest, s.status.busy = false ∧ s.host = .regWrite 0x004 4 w :: rest
          ∧ (w = 0x00000001 ∨ w = 0x00000002))
      ∨ s.status.busy = true ∧ (s.cmd = 0x00000001 ∨ s.cmd = 0x00000002)
          ∧ (s.host = [] ∨ ∃ rest, s.host = .complete :: rest)
end

