-- ==== Sys2Proof/Laws/State.lean ====
section
/-! SUPPORT. What every named update of the state does to every field: one lemma per field, true by unfolding once, so that
no later proof unfolds a record update. -/

namespace Sys2Proof.Machine

/-! ### accept -/

@[simp] theorem accept_params (w : Word) (s : State) : (accept w s).params = s.params := rfl
@[simp] theorem accept_cmd (w : Word) (s : State) : (accept w s).cmd = w := rfl
@[simp] theorem accept_status (w : Word) (s : State) : (accept w s).status = s.status.accepted := rfl
@[simp] theorem accept_errcode (w : Word) (s : State) : (accept w s).errcode = s.errcode := rfl
@[simp] theorem accept_srcAddr (w : Word) (s : State) : (accept w s).srcAddr = s.srcAddr := rfl
@[simp] theorem accept_srcLen (w : Word) (s : State) : (accept w s).srcLen = s.srcLen := rfl
@[simp] theorem accept_dstAddr (w : Word) (s : State) : (accept w s).dstAddr = s.dstAddr := rfl
@[simp] theorem accept_dstCap (w : Word) (s : State) : (accept w s).dstCap = s.dstCap := rfl
@[simp] theorem accept_aux (w : Word) (s : State) : (accept w s).aux = s.aux := rfl
@[simp] theorem accept_resLen (w : Word) (s : State) : (accept w s).resLen = s.resLen := rfl
@[simp] theorem accept_resAux (w : Word) (s : State) : (accept w s).resAux = s.resAux := rfl
@[simp] theorem accept_resAddr (w : Word) (s : State) : (accept w s).resAddr = s.resAddr := rfl
@[simp] theorem accept_resFlags (w : Word) (s : State) : (accept w s).resFlags = s.resFlags := rfl
@[simp] theorem accept_resPi (w : Word) (s : State) : (accept w s).resPi = s.resPi := rfl
@[simp] theorem accept_crcState (w : Word) (s : State) : (accept w s).crcState = s.crcState := rfl
@[simp] theorem accept_nsym (w : Word) (s : State) : (accept w s).nsym = s.nsym := rfl
@[simp] theorem accept_maxlen (w : Word) (s : State) : (accept w s).maxlen = s.maxlen := rfl
@[simp] theorem accept_freq (w : Word) (s : State) : (accept w s).freq = s.freq := rfl
@[simp] theorem accept_len (w : Word) (s : State) : (accept w s).len = s.len := rfl
@[simp] theorem accept_code (w : Word) (s : State) : (accept w s).code = s.code := rfl
@[simp] theorem accept_buf (w : Word) (s : State) : (accept w s).buf = s.buf := rfl
@[simp] theorem accept_bufEpoch (w : Word) (s : State) : (accept w s).bufEpoch = s.bufEpoch := rfl
@[simp] theorem accept_fresh (w : Word) (s : State) : (accept w s).fresh = s.fresh := rfl
@[simp] theorem accept_spanDrop (w : Word) (s : State) : (accept w s).spanDrop = false := rfl
@[simp] theorem accept_hostData (w : Word) (s : State) : (accept w s).hostData = s.hostData := rfl
@[simp] theorem accept_host (w : Word) (s : State) : (accept w s).host = s.host := rfl

/-! ### result -/

@[simp] theorem result_params (l a : Word) (s : State) : (result l a s).params = s.params := rfl
@[simp] theorem result_cmd (l a : Word) (s : State) : (result l a s).cmd = s.cmd := rfl
@[simp] theorem result_status (l a : Word) (s : State) : (result l a s).status = s.status.succeeded := rfl
@[simp] theorem result_errcode (l a : Word) (s : State) : (result l a s).errcode = s.errcode := rfl
@[simp] theorem result_srcAddr (l a : Word) (s : State) : (result l a s).srcAddr = s.srcAddr := rfl
@[simp] theorem result_srcLen (l a : Word) (s : State) : (result l a s).srcLen = s.srcLen := rfl
@[simp] theorem result_dstAddr (l a : Word) (s : State) : (result l a s).dstAddr = s.dstAddr := rfl
@[simp] theorem result_dstCap (l a : Word) (s : State) : (result l a s).dstCap = s.dstCap := rfl
@[simp] theorem result_aux (l a : Word) (s : State) : (result l a s).aux = s.aux := rfl
@[simp] theorem result_resLen (l a : Word) (s : State) : (result l a s).resLen = l := rfl
@[simp] theorem result_resAux (l a : Word) (s : State) : (result l a s).resAux = a := rfl
@[simp] theorem result_resAddr (l a : Word) (s : State) : (result l a s).resAddr = s.resAddr := rfl
@[simp] theorem result_resFlags (l a : Word) (s : State) : (result l a s).resFlags = s.resFlags := rfl
@[simp] theorem result_resPi (l a : Word) (s : State) : (result l a s).resPi = s.resPi := rfl
@[simp] theorem result_crcState (l a : Word) (s : State) : (result l a s).crcState = s.crcState := rfl
@[simp] theorem result_nsym (l a : Word) (s : State) : (result l a s).nsym = s.nsym := rfl
@[simp] theorem result_maxlen (l a : Word) (s : State) : (result l a s).maxlen = s.maxlen := rfl
@[simp] theorem result_freq (l a : Word) (s : State) : (result l a s).freq = s.freq := rfl
@[simp] theorem result_len (l a : Word) (s : State) : (result l a s).len = s.len := rfl
@[simp] theorem result_code (l a : Word) (s : State) : (result l a s).code = s.code := rfl
@[simp] theorem result_buf (l a : Word) (s : State) : (result l a s).buf = s.buf := rfl
@[simp] theorem result_bufEpoch (l a : Word) (s : State) : (result l a s).bufEpoch = s.bufEpoch := rfl
@[simp] theorem result_fresh (l a : Word) (s : State) : (result l a s).fresh = s.fresh := rfl
@[simp] theorem result_spanDrop (l a : Word) (s : State) : (result l a s).spanDrop = s.spanDrop := rfl
@[simp] theorem result_hostData (l a : Word) (s : State) : (result l a s).hostData = s.hostData := rfl
@[simp] theorem result_host (l a : Word) (s : State) : (result l a s).host = s.host := rfl

/-! ### raiseError -/

@[simp] theorem raiseError_params (o : Byte) (e : CmdError) (s : State) : (raiseError o e s).params = s.params := rfl
@[simp] theorem raiseError_cmd (o : Byte) (e : CmdError) (s : State) : (raiseError o e s).cmd = s.cmd := rfl
@[simp] theorem raiseError_status (o : Byte) (e : CmdError) (s : State) : (raiseError o e s).status = s.status.failed := rfl
@[simp] theorem raiseError_errcode (o : Byte) (e : CmdError) (s : State) : (raiseError o e s).errcode = errcodeWord o e := rfl
@[simp] theorem raiseError_srcAddr (o : Byte) (e : CmdError) (s : State) : (raiseError o e s).srcAddr = s.srcAddr := rfl
@[simp] theorem raiseError_srcLen (o : Byte) (e : CmdError) (s : State) : (raiseError o e s).srcLen = s.srcLen := rfl
@[simp] theorem raiseError_dstAddr (o : Byte) (e : CmdError) (s : State) : (raiseError o e s).dstAddr = s.dstAddr := rfl
@[simp] theorem raiseError_dstCap (o : Byte) (e : CmdError) (s : State) : (raiseError o e s).dstCap = s.dstCap := rfl
@[simp] theorem raiseError_aux (o : Byte) (e : CmdError) (s : State) : (raiseError o e s).aux = s.aux := rfl
@[simp] theorem raiseError_resLen (o : Byte) (e : CmdError) (s : State) : (raiseError o e s).resLen = 0 := rfl
@[simp] theorem raiseError_resAux (o : Byte) (e : CmdError) (s : State) : (raiseError o e s).resAux = 0 := rfl
@[simp] theorem raiseError_resAddr (o : Byte) (e : CmdError) (s : State) : (raiseError o e s).resAddr = 0 := rfl
@[simp] theorem raiseError_resFlags (o : Byte) (e : CmdError) (s : State) : (raiseError o e s).resFlags = 0 := rfl
@[simp] theorem raiseError_resPi (o : Byte) (e : CmdError) (s : State) : (raiseError o e s).resPi = 0 := rfl
@[simp] theorem raiseError_crcState (o : Byte) (e : CmdError) (s : State) : (raiseError o e s).crcState = s.crcState := rfl
@[simp] theorem raiseError_nsym (o : Byte) (e : CmdError) (s : State) : (raiseError o e s).nsym = s.nsym := rfl
@[simp] theorem raiseError_maxlen (o : Byte) (e : CmdError) (s : State) : (raiseError o e s).maxlen = s.maxlen := rfl
@[simp] theorem raiseError_freq (o : Byte) (e : CmdError) (s : State) : (raiseError o e s).freq = s.freq := rfl
@[simp] theorem raiseError_len (o : Byte) (e : CmdError) (s : State) : (raiseError o e s).len = s.len := rfl
@[simp] theorem raiseError_code (o : Byte) (e : CmdError) (s : State) : (raiseError o e s).code = s.code := rfl
@[simp] theorem raiseError_buf (o : Byte) (e : CmdError) (s : State) : (raiseError o e s).buf = s.buf := rfl
@[simp] theorem raiseError_bufEpoch (o : Byte) (e : CmdError) (s : State) : (raiseError o e s).bufEpoch = s.bufEpoch := rfl
@[simp] theorem raiseError_fresh (o : Byte) (e : CmdError) (s : State) : (raiseError o e s).fresh = s.fresh := rfl
@[simp] theorem raiseError_spanDrop (o : Byte) (e : CmdError) (s : State) : (raiseError o e s).spanDrop = s.spanDrop := rfl
@[simp] theorem raiseError_hostData (o : Byte) (e : CmdError) (s : State) : (raiseError o e s).hostData = s.hostData := rfl
@[simp] theorem raiseError_host (o : Byte) (e : CmdError) (s : State) : (raiseError o e s).host = s.host := rfl

/-! ### clearError -/

@[simp] theorem clearError_params (s : State) : (clearError s).params = s.params := rfl
@[simp] theorem clearError_cmd (s : State) : (clearError s).cmd = s.cmd := rfl
@[simp] theorem clearError_status (s : State) : (clearError s).status = ⟨s.status.busy, s.status.done, false, s.status.warn, false⟩ := rfl
@[simp] theorem clearError_errcode (s : State) : (clearError s).errcode = 0 := rfl
@[simp] theorem clearError_srcAddr (s : State) : (clearError s).srcAddr = s.srcAddr := rfl
@[simp] theorem clearError_srcLen (s : State) : (clearError s).srcLen = s.srcLen := rfl
@[simp] theorem clearError_dstAddr (s : State) : (clearError s).dstAddr = s.dstAddr := rfl
@[simp] theorem clearError_dstCap (s : State) : (clearError s).dstCap = s.dstCap := rfl
@[simp] theorem clearError_aux (s : State) : (clearError s).aux = s.aux := rfl
@[simp] theorem clearError_resLen (s : State) : (clearError s).resLen = s.resLen := rfl
@[simp] theorem clearError_resAux (s : State) : (clearError s).resAux = s.resAux := rfl
@[simp] theorem clearError_resAddr (s : State) : (clearError s).resAddr = s.resAddr := rfl
@[simp] theorem clearError_resFlags (s : State) : (clearError s).resFlags = s.resFlags := rfl
@[simp] theorem clearError_resPi (s : State) : (clearError s).resPi = s.resPi := rfl
@[simp] theorem clearError_crcState (s : State) : (clearError s).crcState = s.crcState := rfl
@[simp] theorem clearError_nsym (s : State) : (clearError s).nsym = s.nsym := rfl
@[simp] theorem clearError_maxlen (s : State) : (clearError s).maxlen = s.maxlen := rfl
@[simp] theorem clearError_freq (s : State) : (clearError s).freq = s.freq := rfl
@[simp] theorem clearError_len (s : State) : (clearError s).len = s.len := rfl
@[simp] theorem clearError_code (s : State) : (clearError s).code = s.code := rfl
@[simp] theorem clearError_buf (s : State) : (clearError s).buf = s.buf := rfl
@[simp] theorem clearError_bufEpoch (s : State) : (clearError s).bufEpoch = s.bufEpoch := rfl
@[simp] theorem clearError_fresh (s : State) : (clearError s).fresh = s.fresh := rfl
@[simp] theorem clearError_spanDrop (s : State) : (clearError s).spanDrop = s.spanDrop := rfl
@[simp] theorem clearError_hostData (s : State) : (clearError s).hostData = s.hostData := rfl
@[simp] theorem clearError_host (s : State) : (clearError s).host = s.host := rfl

/-! ### resetRegisters -/

@[simp] theorem resetRegisters_params (s : State) : (resetRegisters s).params = s.params := rfl
@[simp] theorem resetRegisters_cmd (s : State) : (resetRegisters s).cmd = 0 := rfl
@[simp] theorem resetRegisters_status (s : State) : (resetRegisters s).status = ⟨false, false, false, false, false⟩ := rfl
@[simp] theorem resetRegisters_errcode (s : State) : (resetRegisters s).errcode = 0 := rfl
@[simp] theorem resetRegisters_srcAddr (s : State) : (resetRegisters s).srcAddr = 0 := rfl
@[simp] theorem resetRegisters_srcLen (s : State) : (resetRegisters s).srcLen = 0 := rfl
@[simp] theorem resetRegisters_dstAddr (s : State) : (resetRegisters s).dstAddr = 0 := rfl
@[simp] theorem resetRegisters_dstCap (s : State) : (resetRegisters s).dstCap = 0 := rfl
@[simp] theorem resetRegisters_aux (s : State) : (resetRegisters s).aux = 0 := rfl
@[simp] theorem resetRegisters_resLen (s : State) : (resetRegisters s).resLen = 0 := rfl
@[simp] theorem resetRegisters_resAux (s : State) : (resetRegisters s).resAux = 0 := rfl
@[simp] theorem resetRegisters_resAddr (s : State) : (resetRegisters s).resAddr = 0 := rfl
@[simp] theorem resetRegisters_resFlags (s : State) : (resetRegisters s).resFlags = 0 := rfl
@[simp] theorem resetRegisters_resPi (s : State) : (resetRegisters s).resPi = 0 := rfl
@[simp] theorem resetRegisters_crcState (s : State) : (resetRegisters s).crcState = 0xFFFFFFFF := rfl
@[simp] theorem resetRegisters_nsym (s : State) : (resetRegisters s).nsym = 0 := rfl
@[simp] theorem resetRegisters_maxlen (s : State) : (resetRegisters s).maxlen = 0 := rfl
@[simp] theorem resetRegisters_freq (s : State) : (resetRegisters s).freq = Table.fill 0 := rfl
@[simp] theorem resetRegisters_len (s : State) : (resetRegisters s).len = Table.fill 0 := rfl
@[simp] theorem resetRegisters_code (s : State) : (resetRegisters s).code = Table.fill 0 := rfl
@[simp] theorem resetRegisters_buf (s : State) : (resetRegisters s).buf = s.buf := rfl
@[simp] theorem resetRegisters_bufEpoch (s : State) : (resetRegisters s).bufEpoch = s.bufEpoch := rfl
@[simp] theorem resetRegisters_fresh (s : State) : (resetRegisters s).fresh = s.fresh := rfl
@[simp] theorem resetRegisters_spanDrop (s : State) : (resetRegisters s).spanDrop = false := rfl
@[simp] theorem resetRegisters_hostData (s : State) : (resetRegisters s).hostData = s.hostData := rfl
@[simp] theorem resetRegisters_host (s : State) : (resetRegisters s).host = s.host := rfl

/-! ### hardwareReset -/

@[simp] theorem hardwareReset_params (s : State) : (hardwareReset s).params = s.params := rfl
@[simp] theorem hardwareReset_cmd (s : State) : (hardwareReset s).cmd = 0 := rfl
@[simp] theorem hardwareReset_status (s : State) : (hardwareReset s).status = ⟨false, false, false, false, false⟩ := rfl
@[simp] theorem hardwareReset_errcode (s : State) : (hardwareReset s).errcode = 0 := rfl
@[simp] theorem hardwareReset_srcAddr (s : State) : (hardwareReset s).srcAddr = 0 := rfl
@[simp] theorem hardwareReset_srcLen (s : State) : (hardwareReset s).srcLen = 0 := rfl
@[simp] theorem hardwareReset_dstAddr (s : State) : (hardwareReset s).dstAddr = 0 := rfl
@[simp] theorem hardwareReset_dstCap (s : State) : (hardwareReset s).dstCap = 0 := rfl
@[simp] theorem hardwareReset_aux (s : State) : (hardwareReset s).aux = 0 := rfl
@[simp] theorem hardwareReset_resLen (s : State) : (hardwareReset s).resLen = 0 := rfl
@[simp] theorem hardwareReset_resAux (s : State) : (hardwareReset s).resAux = 0 := rfl
@[simp] theorem hardwareReset_resAddr (s : State) : (hardwareReset s).resAddr = 0 := rfl
@[simp] theorem hardwareReset_resFlags (s : State) : (hardwareReset s).resFlags = 0 := rfl
@[simp] theorem hardwareReset_resPi (s : State) : (hardwareReset s).resPi = 0 := rfl
@[simp] theorem hardwareReset_crcState (s : State) : (hardwareReset s).crcState = 0xFFFFFFFF := rfl
@[simp] theorem hardwareReset_nsym (s : State) : (hardwareReset s).nsym = 0 := rfl
@[simp] theorem hardwareReset_maxlen (s : State) : (hardwareReset s).maxlen = 0 := rfl
@[simp] theorem hardwareReset_freq (s : State) : (hardwareReset s).freq = Table.fill 0 := rfl
@[simp] theorem hardwareReset_len (s : State) : (hardwareReset s).len = Table.fill 0 := rfl
@[simp] theorem hardwareReset_code (s : State) : (hardwareReset s).code = Table.fill 0 := rfl
@[simp] theorem hardwareReset_buf (s : State) : (hardwareReset s).buf = [] := rfl
@[simp] theorem hardwareReset_bufEpoch (s : State) : (hardwareReset s).bufEpoch = s.fresh := rfl
@[simp] theorem hardwareReset_fresh (s : State) : (hardwareReset s).fresh = s.fresh + 1 := rfl
@[simp] theorem hardwareReset_spanDrop (s : State) : (hardwareReset s).spanDrop = false := rfl
@[simp] theorem hardwareReset_hostData (s : State) : (hardwareReset s).hostData = s.hostData := rfl
@[simp] theorem hardwareReset_host (s : State) : (hardwareReset s).host = s.host := rfl

/-! ### memWrite -/

@[simp] theorem memWrite_params (s : State) (x : Nat) (v : List Byte) : (memWrite s x v).params = s.params := rfl
@[simp] theorem memWrite_cmd (s : State) (x : Nat) (v : List Byte) : (memWrite s x v).cmd = s.cmd := rfl
@[simp] theorem memWrite_status (s : State) (x : Nat) (v : List Byte) : (memWrite s x v).status = s.status := rfl
@[simp] theorem memWrite_errcode (s : State) (x : Nat) (v : List Byte) : (memWrite s x v).errcode = s.errcode := rfl
@[simp] theorem memWrite_srcAddr (s : State) (x : Nat) (v : List Byte) : (memWrite s x v).srcAddr = s.srcAddr := rfl
@[simp] theorem memWrite_srcLen (s : State) (x : Nat) (v : List Byte) : (memWrite s x v).srcLen = s.srcLen := rfl
@[simp] theorem memWrite_dstAddr (s : State) (x : Nat) (v : List Byte) : (memWrite s x v).dstAddr = s.dstAddr := rfl
@[simp] theorem memWrite_dstCap (s : State) (x : Nat) (v : List Byte) : (memWrite s x v).dstCap = s.dstCap := rfl
@[simp] theorem memWrite_aux (s : State) (x : Nat) (v : List Byte) : (memWrite s x v).aux = s.aux := rfl
@[simp] theorem memWrite_resLen (s : State) (x : Nat) (v : List Byte) : (memWrite s x v).resLen = s.resLen := rfl
@[simp] theorem memWrite_resAux (s : State) (x : Nat) (v : List Byte) : (memWrite s x v).resAux = s.resAux := rfl
@[simp] theorem memWrite_resAddr (s : State) (x : Nat) (v : List Byte) : (memWrite s x v).resAddr = s.resAddr := rfl
@[simp] theorem memWrite_resFlags (s : State) (x : Nat) (v : List Byte) : (memWrite s x v).resFlags = s.resFlags := rfl
@[simp] theorem memWrite_resPi (s : State) (x : Nat) (v : List Byte) : (memWrite s x v).resPi = s.resPi := rfl
@[simp] theorem memWrite_crcState (s : State) (x : Nat) (v : List Byte) : (memWrite s x v).crcState = s.crcState := rfl
@[simp] theorem memWrite_nsym (s : State) (x : Nat) (v : List Byte) : (memWrite s x v).nsym = s.nsym := rfl
@[simp] theorem memWrite_maxlen (s : State) (x : Nat) (v : List Byte) : (memWrite s x v).maxlen = s.maxlen := rfl
@[simp] theorem memWrite_freq (s : State) (x : Nat) (v : List Byte) : (memWrite s x v).freq = s.freq := rfl
@[simp] theorem memWrite_len (s : State) (x : Nat) (v : List Byte) : (memWrite s x v).len = s.len := rfl
@[simp] theorem memWrite_code (s : State) (x : Nat) (v : List Byte) : (memWrite s x v).code = s.code := rfl
@[simp] theorem memWrite_buf (s : State) (x : Nat) (v : List Byte) : (memWrite s x v).buf = s.buf.writeBytes x v := rfl
@[simp] theorem memWrite_bufEpoch (s : State) (x : Nat) (v : List Byte) : (memWrite s x v).bufEpoch = s.bufEpoch := rfl
@[simp] theorem memWrite_fresh (s : State) (x : Nat) (v : List Byte) : (memWrite s x v).fresh = s.fresh := rfl
@[simp] theorem memWrite_spanDrop (s : State) (x : Nat) (v : List Byte) : (memWrite s x v).spanDrop = s.spanDrop := rfl
@[simp] theorem memWrite_hostData (s : State) (x : Nat) (v : List Byte) : (memWrite s x v).hostData = s.hostData := rfl
@[simp] theorem memWrite_host (s : State) (x : Nat) (v : List Byte) : (memWrite s x v).host = s.host := rfl

/-! ### dstWrite -/

@[simp] theorem dstWrite_params (s : State) (v : List Byte) : (dstWrite s v).params = s.params := rfl
@[simp] theorem dstWrite_cmd (s : State) (v : List Byte) : (dstWrite s v).cmd = s.cmd := rfl
@[simp] theorem dstWrite_status (s : State) (v : List Byte) : (dstWrite s v).status = s.status := rfl
@[simp] theorem dstWrite_errcode (s : State) (v : List Byte) : (dstWrite s v).errcode = s.errcode := rfl
@[simp] theorem dstWrite_srcAddr (s : State) (v : List Byte) : (dstWrite s v).srcAddr = s.srcAddr := rfl
@[simp] theorem dstWrite_srcLen (s : State) (v : List Byte) : (dstWrite s v).srcLen = s.srcLen := rfl
@[simp] theorem dstWrite_dstAddr (s : State) (v : List Byte) : (dstWrite s v).dstAddr = s.dstAddr := rfl
@[simp] theorem dstWrite_dstCap (s : State) (v : List Byte) : (dstWrite s v).dstCap = s.dstCap := rfl
@[simp] theorem dstWrite_aux (s : State) (v : List Byte) : (dstWrite s v).aux = s.aux := rfl
@[simp] theorem dstWrite_resLen (s : State) (v : List Byte) : (dstWrite s v).resLen = s.resLen := rfl
@[simp] theorem dstWrite_resAux (s : State) (v : List Byte) : (dstWrite s v).resAux = s.resAux := rfl
@[simp] theorem dstWrite_resAddr (s : State) (v : List Byte) : (dstWrite s v).resAddr = s.resAddr := rfl
@[simp] theorem dstWrite_resFlags (s : State) (v : List Byte) : (dstWrite s v).resFlags = s.resFlags := rfl
@[simp] theorem dstWrite_resPi (s : State) (v : List Byte) : (dstWrite s v).resPi = s.resPi := rfl
@[simp] theorem dstWrite_crcState (s : State) (v : List Byte) : (dstWrite s v).crcState = s.crcState := rfl
@[simp] theorem dstWrite_nsym (s : State) (v : List Byte) : (dstWrite s v).nsym = s.nsym := rfl
@[simp] theorem dstWrite_maxlen (s : State) (v : List Byte) : (dstWrite s v).maxlen = s.maxlen := rfl
@[simp] theorem dstWrite_freq (s : State) (v : List Byte) : (dstWrite s v).freq = s.freq := rfl
@[simp] theorem dstWrite_len (s : State) (v : List Byte) : (dstWrite s v).len = s.len := rfl
@[simp] theorem dstWrite_code (s : State) (v : List Byte) : (dstWrite s v).code = s.code := rfl
@[simp] theorem dstWrite_buf (s : State) (v : List Byte) : (dstWrite s v).buf = s.buf.writeBytes s.dstAddr.toNat v := rfl
@[simp] theorem dstWrite_bufEpoch (s : State) (v : List Byte) : (dstWrite s v).bufEpoch = s.bufEpoch := rfl
@[simp] theorem dstWrite_fresh (s : State) (v : List Byte) : (dstWrite s v).fresh = s.fresh := rfl
@[simp] theorem dstWrite_spanDrop (s : State) (v : List Byte) : (dstWrite s v).spanDrop = s.spanDrop := rfl
@[simp] theorem dstWrite_hostData (s : State) (v : List Byte) : (dstWrite s v).hostData = s.hostData := rfl
@[simp] theorem dstWrite_host (s : State) (v : List Byte) : (dstWrite s v).host = s.host := rfl

/-! ### memScramble -/

@[simp] theorem memScramble_params (s : State) (x n : Nat) : (memScramble s x n).params = s.params := rfl
@[simp] theorem memScramble_cmd (s : State) (x n : Nat) : (memScramble s x n).cmd = s.cmd := rfl
@[simp] theorem memScramble_status (s : State) (x n : Nat) : (memScramble s x n).status = s.status := rfl
@[simp] theorem memScramble_errcode (s : State) (x n : Nat) : (memScramble s x n).errcode = s.errcode := rfl
@[simp] theorem memScramble_srcAddr (s : State) (x n : Nat) : (memScramble s x n).srcAddr = s.srcAddr := rfl
@[simp] theorem memScramble_srcLen (s : State) (x n : Nat) : (memScramble s x n).srcLen = s.srcLen := rfl
@[simp] theorem memScramble_dstAddr (s : State) (x n : Nat) : (memScramble s x n).dstAddr = s.dstAddr := rfl
@[simp] theorem memScramble_dstCap (s : State) (x n : Nat) : (memScramble s x n).dstCap = s.dstCap := rfl
@[simp] theorem memScramble_aux (s : State) (x n : Nat) : (memScramble s x n).aux = s.aux := rfl
@[simp] theorem memScramble_resLen (s : State) (x n : Nat) : (memScramble s x n).resLen = s.resLen := rfl
@[simp] theorem memScramble_resAux (s : State) (x n : Nat) : (memScramble s x n).resAux = s.resAux := rfl
@[simp] theorem memScramble_resAddr (s : State) (x n : Nat) : (memScramble s x n).resAddr = s.resAddr := rfl
@[simp] theorem memScramble_resFlags (s : State) (x n : Nat) : (memScramble s x n).resFlags = s.resFlags := rfl
@[simp] theorem memScramble_resPi (s : State) (x n : Nat) : (memScramble s x n).resPi = s.resPi := rfl
@[simp] theorem memScramble_crcState (s : State) (x n : Nat) : (memScramble s x n).crcState = s.crcState := rfl
@[simp] theorem memScramble_nsym (s : State) (x n : Nat) : (memScramble s x n).nsym = s.nsym := rfl
@[simp] theorem memScramble_maxlen (s : State) (x n : Nat) : (memScramble s x n).maxlen = s.maxlen := rfl
@[simp] theorem memScramble_freq (s : State) (x n : Nat) : (memScramble s x n).freq = s.freq := rfl
@[simp] theorem memScramble_len (s : State) (x n : Nat) : (memScramble s x n).len = s.len := rfl
@[simp] theorem memScramble_code (s : State) (x n : Nat) : (memScramble s x n).code = s.code := rfl
@[simp] theorem memScramble_buf (s : State) (x n : Nat) : (memScramble s x n).buf = s.buf.writeBytes x ((List.range n).map fun k => Config.freeByte (s.fresh + k)) := rfl
@[simp] theorem memScramble_bufEpoch (s : State) (x n : Nat) : (memScramble s x n).bufEpoch = s.bufEpoch := rfl
@[simp] theorem memScramble_fresh (s : State) (x n : Nat) : (memScramble s x n).fresh = s.fresh + n := rfl
@[simp] theorem memScramble_spanDrop (s : State) (x n : Nat) : (memScramble s x n).spanDrop = s.spanDrop := rfl
@[simp] theorem memScramble_hostData (s : State) (x n : Nat) : (memScramble s x n).hostData = s.hostData := rfl
@[simp] theorem memScramble_host (s : State) (x n : Nat) : (memScramble s x n).host = s.host := rfl

/-! ### loadTable -/

@[simp] theorem loadTable_params (l : Table Byte) (s : State) : (loadTable l s).params = s.params := rfl
@[simp] theorem loadTable_cmd (l : Table Byte) (s : State) : (loadTable l s).cmd = s.cmd := rfl
@[simp] theorem loadTable_status (l : Table Byte) (s : State) : (loadTable l s).status = s.status := rfl
@[simp] theorem loadTable_errcode (l : Table Byte) (s : State) : (loadTable l s).errcode = s.errcode := rfl
@[simp] theorem loadTable_srcAddr (l : Table Byte) (s : State) : (loadTable l s).srcAddr = s.srcAddr := rfl
@[simp] theorem loadTable_srcLen (l : Table Byte) (s : State) : (loadTable l s).srcLen = s.srcLen := rfl
@[simp] theorem loadTable_dstAddr (l : Table Byte) (s : State) : (loadTable l s).dstAddr = s.dstAddr := rfl
@[simp] theorem loadTable_dstCap (l : Table Byte) (s : State) : (loadTable l s).dstCap = s.dstCap := rfl
@[simp] theorem loadTable_aux (l : Table Byte) (s : State) : (loadTable l s).aux = s.aux := rfl
@[simp] theorem loadTable_resLen (l : Table Byte) (s : State) : (loadTable l s).resLen = s.resLen := rfl
@[simp] theorem loadTable_resAux (l : Table Byte) (s : State) : (loadTable l s).resAux = s.resAux := rfl
@[simp] theorem loadTable_resAddr (l : Table Byte) (s : State) : (loadTable l s).resAddr = s.resAddr := rfl
@[simp] theorem loadTable_resFlags (l : Table Byte) (s : State) : (loadTable l s).resFlags = s.resFlags := rfl
@[simp] theorem loadTable_resPi (l : Table Byte) (s : State) : (loadTable l s).resPi = s.resPi := rfl
@[simp] theorem loadTable_crcState (l : Table Byte) (s : State) : (loadTable l s).crcState = s.crcState := rfl
@[simp] theorem loadTable_nsym (l : Table Byte) (s : State) : (loadTable l s).nsym = BitVec.ofNat 32 (symbolCount l) := rfl
@[simp] theorem loadTable_maxlen (l : Table Byte) (s : State) : (loadTable l s).maxlen = BitVec.ofNat 32 (longest l) := rfl
@[simp] theorem loadTable_freq (l : Table Byte) (s : State) : (loadTable l s).freq = s.freq := rfl
@[simp] theorem loadTable_len (l : Table Byte) (s : State) : (loadTable l s).len = l := rfl
@[simp] theorem loadTable_code (l : Table Byte) (s : State) : (loadTable l s).code = canon l := rfl
@[simp] theorem loadTable_buf (l : Table Byte) (s : State) : (loadTable l s).buf = s.buf := rfl
@[simp] theorem loadTable_bufEpoch (l : Table Byte) (s : State) : (loadTable l s).bufEpoch = s.bufEpoch := rfl
@[simp] theorem loadTable_fresh (l : Table Byte) (s : State) : (loadTable l s).fresh = s.fresh := rfl
@[simp] theorem loadTable_spanDrop (l : Table Byte) (s : State) : (loadTable l s).spanDrop = s.spanDrop := rfl
@[simp] theorem loadTable_hostData (l : Table Byte) (s : State) : (loadTable l s).hostData = s.hostData := rfl
@[simp] theorem loadTable_host (l : Table Byte) (s : State) : (loadTable l s).host = s.host := rfl

/-! ### dropWrite -/

@[simp] theorem dropWrite_params (s : State) : (dropWrite s).params = s.params := rfl
@[simp] theorem dropWrite_cmd (s : State) : (dropWrite s).cmd = s.cmd := rfl
@[simp] theorem dropWrite_status (s : State) : (dropWrite s).status = ⟨s.status.busy, s.status.done, s.status.err, s.status.warn, true⟩ := rfl
@[simp] theorem dropWrite_errcode (s : State) : (dropWrite s).errcode = s.errcode := rfl
@[simp] theorem dropWrite_srcAddr (s : State) : (dropWrite s).srcAddr = s.srcAddr := rfl
@[simp] theorem dropWrite_srcLen (s : State) : (dropWrite s).srcLen = s.srcLen := rfl
@[simp] theorem dropWrite_dstAddr (s : State) : (dropWrite s).dstAddr = s.dstAddr := rfl
@[simp] theorem dropWrite_dstCap (s : State) : (dropWrite s).dstCap = s.dstCap := rfl
@[simp] theorem dropWrite_aux (s : State) : (dropWrite s).aux = s.aux := rfl
@[simp] theorem dropWrite_resLen (s : State) : (dropWrite s).resLen = s.resLen := rfl
@[simp] theorem dropWrite_resAux (s : State) : (dropWrite s).resAux = s.resAux := rfl
@[simp] theorem dropWrite_resAddr (s : State) : (dropWrite s).resAddr = s.resAddr := rfl
@[simp] theorem dropWrite_resFlags (s : State) : (dropWrite s).resFlags = s.resFlags := rfl
@[simp] theorem dropWrite_resPi (s : State) : (dropWrite s).resPi = s.resPi := rfl
@[simp] theorem dropWrite_crcState (s : State) : (dropWrite s).crcState = s.crcState := rfl
@[simp] theorem dropWrite_nsym (s : State) : (dropWrite s).nsym = s.nsym := rfl
@[simp] theorem dropWrite_maxlen (s : State) : (dropWrite s).maxlen = s.maxlen := rfl
@[simp] theorem dropWrite_freq (s : State) : (dropWrite s).freq = s.freq := rfl
@[simp] theorem dropWrite_len (s : State) : (dropWrite s).len = s.len := rfl
@[simp] theorem dropWrite_code (s : State) : (dropWrite s).code = s.code := rfl
@[simp] theorem dropWrite_buf (s : State) : (dropWrite s).buf = s.buf := rfl
@[simp] theorem dropWrite_bufEpoch (s : State) : (dropWrite s).bufEpoch = s.bufEpoch := rfl
@[simp] theorem dropWrite_fresh (s : State) : (dropWrite s).fresh = s.fresh := rfl
@[simp] theorem dropWrite_spanDrop (s : State) : (dropWrite s).spanDrop = true := rfl
@[simp] theorem dropWrite_hostData (s : State) : (dropWrite s).hostData = s.hostData := rfl
@[simp] theorem dropWrite_host (s : State) : (dropWrite s).host = s.host := rfl

/-! ### locate -/

@[simp] theorem locate_params (f : Byte) (o : Nat) (p : Word) (s : State) : (locate f o p s).params = s.params := rfl
@[simp] theorem locate_cmd (f : Byte) (o : Nat) (p : Word) (s : State) : (locate f o p s).cmd = s.cmd := rfl
@[simp] theorem locate_status (f : Byte) (o : Nat) (p : Word) (s : State) : (locate f o p s).status = s.status := rfl
@[simp] theorem locate_errcode (f : Byte) (o : Nat) (p : Word) (s : State) : (locate f o p s).errcode = s.errcode := rfl
@[simp] theorem locate_srcAddr (f : Byte) (o : Nat) (p : Word) (s : State) : (locate f o p s).srcAddr = s.srcAddr := rfl
@[simp] theorem locate_srcLen (f : Byte) (o : Nat) (p : Word) (s : State) : (locate f o p s).srcLen = s.srcLen := rfl
@[simp] theorem locate_dstAddr (f : Byte) (o : Nat) (p : Word) (s : State) : (locate f o p s).dstAddr = s.dstAddr := rfl
@[simp] theorem locate_dstCap (f : Byte) (o : Nat) (p : Word) (s : State) : (locate f o p s).dstCap = s.dstCap := rfl
@[simp] theorem locate_aux (f : Byte) (o : Nat) (p : Word) (s : State) : (locate f o p s).aux = s.aux := rfl
@[simp] theorem locate_resLen (f : Byte) (o : Nat) (p : Word) (s : State) : (locate f o p s).resLen = s.resLen := rfl
@[simp] theorem locate_resAux (f : Byte) (o : Nat) (p : Word) (s : State) : (locate f o p s).resAux = s.resAux := rfl
@[simp] theorem locate_resAddr (f : Byte) (o : Nat) (p : Word) (s : State) : (locate f o p s).resAddr = addressResult s (s.srcAddr.toNat + o) := rfl
@[simp] theorem locate_resFlags (f : Byte) (o : Nat) (p : Word) (s : State) : (locate f o p s).resFlags = 0#22 ++ (pathOf f).code ++ f := rfl
@[simp] theorem locate_resPi (f : Byte) (o : Nat) (p : Word) (s : State) : (locate f o p s).resPi = p := rfl
@[simp] theorem locate_crcState (f : Byte) (o : Nat) (p : Word) (s : State) : (locate f o p s).crcState = s.crcState := rfl
@[simp] theorem locate_nsym (f : Byte) (o : Nat) (p : Word) (s : State) : (locate f o p s).nsym = s.nsym := rfl
@[simp] theorem locate_maxlen (f : Byte) (o : Nat) (p : Word) (s : State) : (locate f o p s).maxlen = s.maxlen := rfl
@[simp] theorem locate_freq (f : Byte) (o : Nat) (p : Word) (s : State) : (locate f o p s).freq = s.freq := rfl
@[simp] theorem locate_len (f : Byte) (o : Nat) (p : Word) (s : State) : (locate f o p s).len = s.len := rfl
@[simp] theorem locate_code (f : Byte) (o : Nat) (p : Word) (s : State) : (locate f o p s).code = s.code := rfl
@[simp] theorem locate_buf (f : Byte) (o : Nat) (p : Word) (s : State) : (locate f o p s).buf = s.buf := rfl
@[simp] theorem locate_bufEpoch (f : Byte) (o : Nat) (p : Word) (s : State) : (locate f o p s).bufEpoch = s.bufEpoch := rfl
@[simp] theorem locate_fresh (f : Byte) (o : Nat) (p : Word) (s : State) : (locate f o p s).fresh = if s.srcAddr.toNat + o < 2 ^ 32 then s.fresh else s.fresh + 1 := rfl
@[simp] theorem locate_spanDrop (f : Byte) (o : Nat) (p : Word) (s : State) : (locate f o p s).spanDrop = s.spanDrop := rfl
@[simp] theorem locate_hostData (f : Byte) (o : Nat) (p : Word) (s : State) : (locate f o p s).hostData = s.hostData := rfl
@[simp] theorem locate_host (f : Byte) (o : Nat) (p : Word) (s : State) : (locate f o p s).host = s.host := rfl

/-! ### The status bits of the updates -/

@[simp] theorem Status.accepted_busy (b : Status) : b.accepted.busy = true := rfl
@[simp] theorem Status.accepted_done (b : Status) : b.accepted.done = false := rfl
@[simp] theorem Status.accepted_err (b : Status) : b.accepted.err = b.err := rfl
@[simp] theorem Status.accepted_warn (b : Status) : b.accepted.warn = false := rfl
@[simp] theorem Status.accepted_wbusy (b : Status) : b.accepted.wbusy = b.wbusy := rfl
@[simp] theorem Status.succeeded_busy (b : Status) : b.succeeded.busy = false := rfl
@[simp] theorem Status.succeeded_done (b : Status) : b.succeeded.done = true := rfl
@[simp] theorem Status.succeeded_err (b : Status) : b.succeeded.err = b.err := rfl
@[simp] theorem Status.succeeded_warn (b : Status) : b.succeeded.warn = b.warn := rfl
@[simp] theorem Status.succeeded_wbusy (b : Status) : b.succeeded.wbusy = b.wbusy := rfl
@[simp] theorem Status.failed_busy (b : Status) : b.failed.busy = false := rfl
@[simp] theorem Status.failed_done (b : Status) : b.failed.done = false := rfl
@[simp] theorem Status.failed_err (b : Status) : b.failed.err = true := rfl
@[simp] theorem Status.failed_warn (b : Status) : b.failed.warn = false := rfl
@[simp] theorem Status.failed_wbusy (b : Status) : b.failed.wbusy = b.wbusy := rfl

end Sys2Proof.Machine
end

