-- ==== Sys2Proof/Laws/Memory.lean ====
section
/-! SUPPORT. BUF: every memory operation keeps the canonical form; a read after a write gives the value written and leaves
every other address alone; memories in canonical form with the same bytes are equal. -/

namespace Sys2Proof.Machine

@[simp] theorem Memory.wf_nil : Memory.wf [] := List.Pairwise.nil

@[simp] theorem Memory.lookup_nil (a : Nat) : Memory.lookup [] a = none := rfl

@[simp] theorem Memory.writeBytes_nil (m : Memory) (a : Nat) : m.writeBytes a [] = m := rfl

@[simp] theorem Memory.writeBytes_cons (m : Memory) (a : Nat) (v : Byte) (vs : List Byte) :
    m.writeBytes a (v :: vs) = (m.write a v).writeBytes (a + 1) vs := rfl

/-- The entries of a memory after a write are the written one and entries that were there at other addresses. -/
theorem Memory.mem_write {m : Memory} {a : Nat} {v : Byte} {c : Host.Cell} (h : c ∈ m.write a v) :
    c = (a, v) ∨ c ∈ m := by
  induction m with
  | nil => simpa [Memory.write] using h
  | cons d m ih =>
    obtain ⟨b, u⟩ := d
    simp only [Memory.write] at h
    split at h
    · simpa using h
    · split at h
      · rcases List.mem_cons.1 h with h | h
        · exact .inl h
        · exact .inr (List.mem_cons_of_mem _ h)
      · rcases List.mem_cons.1 h with h | h
        · exact .inr (h ▸ List.mem_cons_self)
        · exact (ih h).imp id (List.mem_cons_of_mem _)

/-- A write keeps the canonical form. -/
theorem Memory.wf_write {m : Memory} (h : m.wf) (a : Nat) (v : Byte) : (m.write a v).wf := by
  induction m with
  | nil => simp [Memory.write, Memory.wf]
  | cons d m ih =>
    obtain ⟨b, u⟩ := d
    have hm := (List.pairwise_cons.1 h).2
    have hb := (List.pairwise_cons.1 h).1
    simp only [Memory.write]
    split
    · next hab =>
      refine List.pairwise_cons.2 ⟨fun c hc => ?_, h⟩
      rcases List.mem_cons.1 hc with rfl | hc
      · exact hab
      · exact lt_trans hab (hb c hc)
    · split
      · next hab => exact List.pairwise_cons.2 ⟨fun c hc => hab ▸ hb c hc, hm⟩
      · next h1 h2 =>
        refine List.pairwise_cons.2 ⟨fun c hc => ?_, ih hm⟩
        rcases Memory.mem_write hc with rfl | hc
        · show b < a
          omega
        · exact hb c hc

/-- Writing a sequence keeps the canonical form. -/
theorem Memory.wf_writeBytes {m : Memory} (h : m.wf) (a : Nat) (vs : List Byte) : (m.writeBytes a vs).wf := by
  induction vs generalizing m a with
  | nil => exact h
  | cons v vs ih => exact ih (Memory.wf_write h a v) (a + 1)

/-- Writing a sequence adds entries only at the addresses written. -/
theorem Memory.mem_writeBytes {m : Memory} {a : Nat} {vs : List Byte} {c : Host.Cell} (h : c ∈ m.writeBytes a vs) :
    a ≤ c.1 ∧ c.1 < a + vs.length ∨ c ∈ m := by
  induction vs generalizing m a with
  | nil => exact .inr h
  | cons v vs ih =>
    rw [Memory.writeBytes_cons] at h
    rcases ih h with h | h
    · left
      rw [List.length_cons]
      omega
    · rcases Memory.mem_write h with rfl | h
      · left
        simp
      · exact .inr h

/-- A read after a write to the same address gives the byte written. -/
@[simp] theorem Memory.lookup_write_self (m : Memory) (a : Nat) (v : Byte) : (m.write a v).lookup a = some v := by
  induction m with
  | nil => simp [Memory.write, Memory.lookup]
  | cons d m ih =>
    obtain ⟨b, u⟩ := d
    simp only [Memory.write]
    split
    · simp [Memory.lookup]
    · split
      · simp [Memory.lookup]
      · next h => simp [Memory.lookup, h, ih]

/-- A write leaves every other address alone. -/
theorem Memory.lookup_write_ne {m : Memory} {a a' : Nat} (v : Byte) (h : a' ≠ a) :
    (m.write a v).lookup a' = m.lookup a' := by
  induction m with
  | nil => simp [Memory.write, Memory.lookup, h]
  | cons d m ih =>
    obtain ⟨b, u⟩ := d
    simp only [Memory.write]
    split
    · simp [Memory.lookup, h]
    · split
      · next hab => simp [Memory.lookup, h, hab ▸ h]
      · simp [Memory.lookup, ih]

/-- Writing a sequence leaves every address outside it alone. -/
theorem Memory.lookup_writeBytes_outside {m : Memory} {a a' : Nat} {vs : List Byte}
    (h : a' < a ∨ a + vs.length ≤ a') : (m.writeBytes a vs).lookup a' = m.lookup a' := by
  induction vs generalizing m a with
  | nil => rfl
  | cons v vs ih =>
    rw [List.length_cons] at h
    rw [Memory.writeBytes_cons, ih (by omega), Memory.lookup_write_ne v (by omega)]

/-- After writing a sequence, its k-th byte stands at the k-th address. -/
theorem Memory.lookup_writeBytes_inside (m : Memory) (a : Nat) (vs : List Byte) (k : Nat) (h : k < vs.length) :
    (m.writeBytes a vs).lookup (a + k) = some vs[k] := by
  induction vs generalizing m a k with
  | nil => simp at h
  | cons v vs ih =>
    rw [Memory.writeBytes_cons]
    cases k with
    | zero =>
      rw [Memory.lookup_writeBytes_outside (by omega)]
      simp
    | succ k =>
      rw [show a + (k + 1) = a + 1 + k by omega]
      simpa using ih (m.write a v) (a + 1) k (by simpa using h)

/-- No entry is found below every address of a memory. -/
theorem Memory.lookup_eq_none_of_lt {m : Memory} {a : Nat} (h : ∀ c ∈ m, a < c.1) : m.lookup a = none := by
  induction m with
  | nil => rfl
  | cons d m ih =>
    obtain ⟨b, u⟩ := d
    have hb : a < b := h (b, u) List.mem_cons_self
    simp only [Memory.lookup]
    rw [if_neg (by omega)]
    exact ih fun c hc => h c (List.mem_cons_of_mem _ hc)

/-- In canonical form, equal memories are equal data. -/
theorem Memory.ext_of_wf {m m' : Memory} (h : m.wf) (h' : m'.wf) (hl : ∀ a, m.lookup a = m'.lookup a) : m = m' := by
  induction m generalizing m' with
  | nil =>
    cases m' with
    | nil => rfl
    | cons d _ => simpa [Memory.lookup] using hl d.1
  | cons d m ih =>
    obtain ⟨b, u⟩ := d
    cases m' with
    | nil => simpa [Memory.lookup] using hl b
    | cons d' m' =>
      obtain ⟨b', u'⟩ := d'
      have hb := (List.pairwise_cons.1 h).1
      have hb' := (List.pairwise_cons.1 h').1
      have hbb : b = b' := by
        rcases lt_trichotomy b b' with hlt | heq | hgt
        · exfalso
          have hn : Memory.lookup ((b', u') :: m') b = none :=
            Memory.lookup_eq_none_of_lt fun c hc => by
              rcases List.mem_cons.1 hc with rfl | hc
              · exact hlt
              · exact lt_trans hlt (hb' c hc)
          have hs := hl b
          rw [hn] at hs
          simp [Memory.lookup] at hs
        · exact heq
        · exfalso
          have hn : Memory.lookup ((b, u) :: m) b' = none :=
            Memory.lookup_eq_none_of_lt fun c hc => by
              rcases List.mem_cons.1 hc with rfl | hc
              · exact hgt
              · exact lt_trans hgt (hb c hc)
          have hs := hl b'
          rw [hn] at hs
          simp [Memory.lookup] at hs
      subst hbb
      have hu : u = u' := by simpa [Memory.lookup] using hl b
      subst hu
      congr 1
      refine ih (List.pairwise_cons.1 h).2 (List.pairwise_cons.1 h').2 fun a => ?_
      rcases eq_or_ne a b with rfl | hab
      · rw [Memory.lookup_eq_none_of_lt hb, Memory.lookup_eq_none_of_lt hb']
      · simpa [Memory.lookup, hab] using hl a

/-! ### Bytes of BUF as the machine reads them -/

/-- The byte at an address depends on what was written there and on the last reset alone. -/
theorem readBuf_congr {s t : State} {a : Nat} (hb : t.buf.lookup a = s.buf.lookup a) (he : t.bufEpoch = s.bufEpoch) :
    readBuf t a = readBuf s a := by
  unfold readBuf
  rw [hb, he]

@[simp] theorem length_memRead (s : State) (a n : Nat) : (memRead s a n).length = n := by simp [memRead]

@[simp] theorem length_srcBytes (s : State) : (srcBytes s).length = s.srcLen.toNat := length_memRead ..

theorem getElem_memRead (s : State) (a n k : Nat) (h : k < (memRead s a n).length) :
    (memRead s a n)[k] = readBuf s (a + k) := by simp [memRead]

/-- Two states whose bytes agree on a range read the same sequence there. -/
theorem memRead_congr {s t : State} {a n : Nat} (h : ∀ k < n, readBuf t (a + k) = readBuf s (a + k)) :
    memRead t a n = memRead s a n :=
  List.map_congr_left fun k hk => h k (List.mem_range.1 hk)

/-- A write leaves every byte outside it as it was. -/
theorem readBuf_memWrite_outside {s : State} {x a : Nat} {v : List Byte} (h : a < x ∨ x + v.length ≤ a) :
    readBuf (memWrite s x v) a = readBuf s a :=
  readBuf_congr (Memory.lookup_writeBytes_outside h) rfl

/-- The k-th byte of a sequence just written. -/
theorem readBuf_memWrite_inside (s : State) (x : Nat) (v : List Byte) (k : Nat) (h : k < v.length) :
    readBuf (memWrite s x v) (x + k) = v[k] := by
  simp [readBuf, Memory.lookup_writeBytes_inside _ _ _ _ h]

/-- Reading back a sequence just written gives it. -/
theorem memRead_memWrite (s : State) (x : Nat) (v : List Byte) : memRead (memWrite s x v) x v.length = v := by
  apply List.ext_getElem (by simp)
  intro k h _
  rw [getElem_memRead, readBuf_memWrite_inside]

/-- Scrambling leaves every byte outside its range as it was. -/
theorem readBuf_memScramble_outside {s : State} {x n a : Nat} (h : a < x ∨ x + n ≤ a) :
    readBuf (memScramble s x n) a = readBuf s a :=
  readBuf_congr (Memory.lookup_writeBytes_outside (by simpa using h)) rfl

/-- Every byte of a scrambled range is a free value not used before. -/
theorem readBuf_memScramble_inside (s : State) (x n k : Nat) (h : k < n) :
    readBuf (memScramble s x n) (x + k) = Config.freeByte (s.fresh + k) := by
  have hk : k < ((List.range n).map fun j => Config.freeByte (s.fresh + j)).length := by simpa using h
  simp [readBuf, Memory.lookup_writeBytes_inside _ x _ k hk]

end Sys2Proof.Machine
end

