-- ==== Sys2Proof/Laws/Tables.lean ====
section
/-! SUPPORT. The table files: reading after writing, extensionality, and which byte values a table lists. -/

namespace Sys2Proof.Machine

@[simp] theorem length_allBytes : allBytes.length = 256 := by simp [allBytes]

@[simp] theorem getElem_allBytes (k : Nat) (h : k < allBytes.length) : allBytes[k] = BitVec.ofNat 8 k := by
  simp [allBytes]

@[simp] theorem getElem_allBytes_toNat (v : Byte) (h : v.toNat < allBytes.length) : allBytes[v.toNat] = v := by
  simp

@[simp] theorem mem_allBytes (v : Byte) : v ∈ allBytes :=
  List.mem_iff_getElem.2 ⟨v.toNat, by simpa using v.isLt, by simp⟩

/-- The byte values stand in ascending order. -/
theorem allBytes_pairwise : allBytes.Pairwise fun u v => u.toNat < v.toNat := by
  rw [List.pairwise_iff_getElem]
  intro i j hi hj hij
  rw [length_allBytes] at hi hj
  simp only [getElem_allBytes, BitVec.toNat_ofNat]
  omega

theorem allBytes_nodup : allBytes.Nodup :=
  allBytes_pairwise.imp fun h e => by simp [e] at h

/-- Two tables with the same entries are equal. -/
theorem Table.ext_get {α : Type} {t u : Table α} (h : ∀ v, t.get v = u.get v) : t = u := by
  obtain ⟨l, hl⟩ := t
  obtain ⟨m, hm⟩ := u
  have : l = m := by
    apply List.ext_getElem (by rw [hl, hm])
    intro k hk hk'
    have := h (BitVec.ofNat 8 k)
    simpa [Table.get, Nat.mod_eq_of_lt (show k < 256 by omega)] using this
  subst this
  rfl

@[simp] theorem Table.get_ofFn {α : Type} (f : Byte → α) (v : Byte) : (Table.ofFn f).get v = f v := by
  simp [Table.get, Table.ofFn]

@[simp] theorem Table.get_fill {α : Type} (x : α) (v : Byte) : (Table.fill x).get v = x :=
  List.getElem_replicate ..

@[simp] theorem Table.get_set_self {α : Type} (t : Table α) (v : Byte) (x : α) : (t.set v x).get v = x := by
  simp [Table.get, Table.set]

theorem Table.get_set_ne {α : Type} (t : Table α) {u v : Byte} (x : α) (h : u ≠ v) : (t.set v x).get u = t.get u := by
  have : v.toNat ≠ u.toNat := fun e => h (BitVec.eq_of_toNat_eq e.symm)
  simp [Table.get, Table.set, List.getElem_set_ne this]

/-- The pairs of a table are the byte values with their entries. -/
theorem Table.pairs_eq {α : Type} (t : Table α) : t.pairs = allBytes.map fun v => (v, t.get v) := by
  apply List.ext_getElem
  · simp [Table.pairs, t.size_eq]
  · intro k h _
    have hk : k < 256 := by simpa [Table.pairs, t.size_eq] using h
    simp [Table.pairs, Table.get, Nat.mod_eq_of_lt hk]

/-- The support of a table: the byte values whose entry is not 0, in ascending order. -/
theorem Table.support_eq {n : Nat} (t : Table (BitVec n)) : t.support = allBytes.filter fun v => t.get v ≠ 0 := by
  simp [Table.support, Table.pairs_eq, List.filter_map, Function.comp_def]

@[simp] theorem Table.mem_support {n : Nat} {t : Table (BitVec n)} {v : Byte} : v ∈ t.support ↔ t.get v ≠ 0 := by
  simp [Table.support_eq]

theorem Table.support_pairwise {n : Nat} (t : Table (BitVec n)) : t.support.Pairwise fun u v => u.toNat < v.toNat := by
  rw [Table.support_eq]
  exact allBytes_pairwise.filter _

theorem Table.support_nodup {n : Nat} (t : Table (BitVec n)) : t.support.Nodup := by
  rw [Table.support_eq]
  exact allBytes_nodup.filter _

theorem Table.length_support_le {n : Nat} (t : Table (BitVec n)) : t.support.length ≤ 256 := by
  rw [Table.support_eq]
  exact (List.length_filter_le _ _).trans (by simp)

@[simp] theorem mem_coded {lens : Table Byte} {v : Byte} : v ∈ coded lens ↔ lens.get v ≠ 0 := Table.mem_support

@[simp] theorem mem_present {F : Table Word} {v : Byte} : v ∈ present F ↔ F.get v ≠ 0 := Table.mem_support

@[simp] theorem support_fill_zero {n : Nat} : (Table.fill 0#n).support = [] := by
  simp [Table.support_eq]

/-- The empty table: no code, no symbol, length 0 (43_huffman.md R151, R153). -/
theorem canon_fill_zero : canon (Table.fill 0) = Table.fill 0 :=
  Table.ext_get fun v => by simp [canon, canonCodes, coded]

@[simp] theorem symbolCount_fill_zero : symbolCount (Table.fill 0#8) = 0 := by simp [symbolCount, coded]

@[simp] theorem longest_fill_zero : longest (Table.fill 0#8) = 0 := by decide +kernel

end Sys2Proof.Machine
end

