-- ==== Sys2Proof/Laws/Ops.lean ====
section
/-! SUPPORT. What the shared operations can do: the checks and the first error, ranges, big-endian fields, the bits of
STATUS and ERRCODE, bits of a byte stream, the service of one event. -/

namespace Sys2Proof.Machine

/-! ### Checks -/

@[simp] theorem firstError_nil : firstError [] = none := rfl

@[simp] theorem firstError_cons (b : Bool) (e : CmdError) (cs : List Check) :
    firstError ((b, e) :: cs) = if b then some e else firstError cs := rfl

/-- No error is raised exactly when no check fails. -/
theorem firstError_eq_none {cs : List Check} : firstError cs = none ↔ ∀ c ∈ cs, c.1 = false := by
  induction cs with
  | nil => simp
  | cons c cs ih =>
    obtain ⟨b, e⟩ := c
    cases b <;> simp [ih]

/-- An error is raised exactly when its check is the first that fails. -/
theorem firstError_eq_some {cs : List Check} {e : CmdError} :
    firstError cs = some e ↔ ∃ pre post, cs = pre ++ (true, e) :: post ∧ ∀ c ∈ pre, c.1 = false := by
  induction cs with
  | nil => simp
  | cons c cs ih =>
    obtain ⟨b, d⟩ := c
    cases b with
    | false =>
      rw [firstError_cons, if_neg (by simp), ih]
      constructor
      · rintro ⟨pre, post, rfl, h⟩
        exact ⟨(false, d) :: pre, post, rfl, by simpa using h⟩
      · rintro ⟨pre, post, h, hp⟩
        cases pre with
        | nil => simp at h
        | cons p pre =>
          obtain ⟨rfl, rfl⟩ := List.cons.inj h
          exact ⟨pre, post, rfl, fun c hc => hp c (List.mem_cons_of_mem _ hc)⟩
    | true =>
      rw [firstError_cons, if_pos rfl]
      constructor
      · intro h
        exact ⟨[], cs, by simpa using h, by simp⟩
      · rintro ⟨pre, post, h, hp⟩
        cases pre with
        | nil => simpa using (List.cons.inj h).1
        | cons p pre =>
          have := hp p List.mem_cons_self
          rw [← (List.cons.inj h).1] at this
          simp at this

theorem inBounds_iff {p : Params} {a n : Word} :
    inBounds p a n = true ↔ n.toNat = 0 ∨ a.toNat + n.toNat ≤ p.bufBytes := by simp [inBounds]

theorem inBounds_false_iff {p : Params} {a n : Word} :
    inBounds p a n = false ↔ n.toNat ≠ 0 ∧ p.bufBytes < a.toNat + n.toNat := by
  rw [← Bool.not_eq_true, inBounds_iff]
  omega

theorem overlaps_iff {a n d c : Word} :
    overlaps a n d c = true ↔
      0 < n.toNat ∧ 0 < c.toNat ∧ a.toNat < d.toNat + c.toNat ∧ d.toNat < a.toNat + n.toNat := by
  simp [overlaps, and_assoc]

/-- Ranges overlap exactly when they share a byte (20_memory.md R64). -/
theorem overlaps_iff_shared {a n d c : Word} :
    overlaps a n d c = true ↔ ∃ x, inRange a n x = true ∧ inRange d c x = true := by
  rw [overlaps_iff]
  simp only [inRange, Bool.and_eq_true, decide_eq_true_eq]
  constructor
  · rintro ⟨hn, hc, h1, h2⟩
    exact ⟨max a.toNat d.toNat, by omega, by omega⟩
  · rintro ⟨x, h1, h2⟩
    omega

theorem inRange_iff {a n : Word} {x : Nat} : inRange a n x = true ↔ a.toNat ≤ x ∧ x < a.toNat + n.toNat := by
  simp [inRange]

theorem exceedsBlock_iff {s : State} {v : Word} : exceedsBlock s v = true ↔ s.params.maxBlock.toNat < v.toNat := by
  simp [exceedsBlock]

/-! ### Big-endian fields -/

@[simp] theorem length_toBe32 (v : Word) : (toBe32 v).length = 4 := rfl

/-- Reading back a big-endian field (20_memory.md R67). -/
theorem be32At_toBe32 (v : Word) (pre post : List Byte) : be32At (pre ++ toBe32 v ++ post) pre.length = v := by
  have h : ∀ k, k < 4 → (pre ++ toBe32 v ++ post).getD (pre.length + k) 0 = (toBe32 v).getD k 0 := by
    intro k hk
    rw [List.append_assoc, List.getD_append_right _ _ _ _ (by omega), Nat.add_sub_cancel_left,
      List.getD_append _ _ _ _ (by simpa using hk)]
  unfold be32At
  rw [show pre.length = pre.length + 0 from rfl, h 0 (by omega), h 1 (by omega), h 2 (by omega), h 3 (by omega)]
  apply BitVec.eq_of_getLsbD_eq
  intro i hi
  simp only [toBe32, List.getD_cons_zero, List.getD_cons_succ, BitVec.getLsbD_append, BitVec.getLsbD_extractLsb']
  split
  · simp_all
  · split
    · next h1 h2 =>
      rw [show 8 + (i - 8) = i by omega]
      simp
      omega
    · split
      · next h1 h2 h3 =>
        rw [show 16 + (i - 8 - 8) = i by omega]
        simp
        omega
      · next h1 h2 h3 =>
        rw [show 24 + (i - 8 - 8 - 8) = i by omega]
        simp
        omega

@[simp] theorem length_header (m : Word) (P : List Byte) (z : Word) (f : Byte) : (header m P z f).length = 13 := rfl

@[simp] theorem length_container (m : Word) (P : List Byte) (z : Word) (f : Byte) :
    (container m P z f).length = 13 + P.length := by simp [container]

/-! ### ERRCODE -/

/-- The class field of ERRCODE (10_state.md R30). -/
@[simp] theorem errcodeWord_class (o : Byte) (e : CmdError) : (errcodeWord o e).extractLsb' 0 8 = e.cls.code := by
  apply BitVec.eq_of_getLsbD_eq
  intro i hi
  simp only [errcodeWord, BitVec.getLsbD_extractLsb', BitVec.getLsbD_append]
  simp [hi]

theorem ErrClass.code_ne_zero (c : ErrClass) : c.code ≠ 0 := by cases c <;> decide

/-- An error never leaves ERRCODE 0 (60_exceptions.md R201: a class of 0 is "no error"). -/
theorem errcodeWord_ne_zero (o : Byte) (e : CmdError) : errcodeWord o e ≠ 0 := by
  intro h
  have := errcodeWord_class o e
  rw [h] at this
  exact e.cls.code_ne_zero (by simpa using this.symm)

/-! ### The bitstream -/

@[simp] theorem streamBits_nil : streamBits [] = [] := rfl

@[simp] theorem length_streamBits (B : List Byte) : (streamBits B).length = 8 * B.length := by
  induction B with
  | nil => rfl
  | cons b B ih =>
    have : (streamBits (b :: B)).length = 8 + (streamBits B).length := by simp [streamBits]
    rw [this, ih, List.length_cons]
    omega

theorem streamBits_append (A B : List Byte) : streamBits (A ++ B) = streamBits A ++ streamBits B := by
  simp [streamBits]

@[simp] theorem length_codeBits (s : State) (v : Byte) : (codeBits s v).length = (s.len.get v).toNat := by
  simp [codeBits]

@[simp] theorem length_packBytes (bits : List Bool) : (packBytes bits).length = bytesFor bits.length := by
  simp [packBytes]

theorem padCount_lt (n : Nat) : padCount n < 8 := by
  unfold padCount bytesFor
  omega

/-- Packed and pad bits fill whole bytes. -/
theorem add_padCount (n : Nat) : n + padCount n = 8 * bytesFor n := by
  unfold padCount bytesFor
  omega

/-! ### The checksum, the transform and the tables: lengths -/

theorem crcFold_append (st : Word) (A B : List Byte) : crcFold st (A ++ B) = crcFold (crcFold st A) B := by
  simp [crcFold]

theorem sortedRotations_perm (S : List Byte) : (sortedRotations S).Perm (List.range S.length) :=
  List.perm_insertionSort ..

@[simp] theorem length_sortedRotations (S : List Byte) : (sortedRotations S).length = S.length := by
  rw [(sortedRotations_perm S).length_eq, List.length_range]

@[simp] theorem length_bwtLastColumn (S : List Byte) : (bwtLastColumn S).length = S.length := by
  simp [bwtLastColumn]

theorem length_lfWalk (L : List Byte) (lf : List Nat) (n i : Nat) (out : List Byte) :
    (lfWalk L lf n i out).2.length = n + out.length := by
  induction n generalizing i out with
  | zero => simp [lfWalk]
  | succ n ih =>
    rw [lfWalk, ih, List.length_cons]
    omega

@[simp] theorem length_bwtInverse (L : List Byte) (p : Nat) : (bwtInverse L p).2.length = L.length := by
  simp [bwtInverse, length_lfWalk]

/-- A decode of `t` symbols that succeeds gives `t` bytes. -/
theorem length_decodeMany {codes : List (Byte × Nat × Nat)} {m t : Nat} {bits : List Bool} {out : List Byte}
    {left : List Bool} (h : decodeMany codes m t bits = .ok (out, left)) : out.length = t := by
  induction t generalizing bits out with
  | zero =>
    simp only [decodeMany, Except.ok.injEq, Prod.mk.injEq] at h
    simp [← h.1]
  | succ t ih =>
    simp only [decodeMany] at h
    split at h
    · cases h
    · split at h
      · cases h
      · next h2 =>
        simp only [Except.ok.injEq, Prod.mk.injEq] at h
        obtain ⟨rfl, rfl⟩ := h
        rw [List.length_cons, ih h2]

/-! ### The service of one event -/

/-- What an access to the register window ends in (10_state.md R43, 20_memory.md R60). -/
theorem regAccess_cases (off width : Nat) (k : Result) :
    regAccessAligned off width = false ∧ regAccess off width k = .refused .registerAccess
      ∨ regAccessAligned off width = true ∧ regAccessInWindow off = false ∧ regAccess off width k = .refused .outsideWindow
      ∨ regAccessAligned off width = true ∧ regAccessInWindow off = true ∧ regAccess off width k = k := by
  unfold regAccess
  cases regAccessAligned off width <;> cases regAccessInWindow off <;> simp

/-- What a host access to BUF ends in (20_memory.md R60, R73). -/
theorem bufAccess_cases (s : State) (addr : Word) (k : State) :
    s.params.bufBytes ≤ addr.toNat ∧ bufAccess s addr k = .fault .bufAddress
      ∨ addr.toNat < s.params.bufBytes ∧ s.status.busy = true ∧ inFlight s addr.toNat = true
          ∧ bufAccess s addr k = .fault .hostRace
      ∨ addr.toNat < s.params.bufBytes ∧ (s.status.busy = true → inFlight s addr.toNat = false)
          ∧ bufAccess s addr k = .next k := by
  unfold bufAccess
  by_cases h : s.params.bufBytes ≤ addr.toNat
  · simp [h]
  · cases hb : s.status.busy <;> cases hf : inFlight s addr.toNat <;> simp [h] <;> omega

/-- What a write of a word to CMD ends in (40_control.md R120). -/
theorem issue_cases (s : State) (w : Word) :
    s.status.busy = true ∧ issue s w = .next (dropWrite s)
      ∨ s.status.busy = false ∧ discarded s w = true ∧ issue s w = .next s
      ∨ s.status.busy = false ∧ discarded s w = false ∧ issue s w = runAccepted (accept w s) := by
  unfold issue
  cases s.status.busy <;> cases discarded s w <;> simp

/-- What the running of an accepted word ends in (40_control.md R121). -/
theorem runAccepted_cases (s : State) :
    (∃ e, decode s.cmd = .error e
        ∧ runAccepted s = .next (raiseError (opcodeField s.cmd) ⟨.illegalCommand, DecodeError.detail e⟩ s))
      ∨ ∃ i, decode s.cmd = .ok i ∧ runAccepted s = exec i s := by
  unfold runAccepted
  cases decode s.cmd with
  | error e => exact .inl ⟨e, rfl, rfl⟩
  | ok i => exact .inr ⟨i, rfl, rfl⟩

/-- What a step does: it serves the next event, completes a running command when no event is left, or keeps all state. -/
theorem serveNext_cases (s : State) :
    (∃ e rest, s.host = e :: rest ∧ serveNext s = serve { s with host := rest } e)
      ∨ s.host = [] ∧ s.status.busy = true ∧ serveNext s = completeSpan s
      ∨ s.host = [] ∧ s.status.busy = false ∧ serveNext s = .next s := by
  unfold serveNext
  cases s.host with
  | cons e rest => exact .inl ⟨e, rest, rfl, rfl⟩
  | nil => cases s.status.busy <;> simp

/-- `settleWbusy` changes WBUSY and the counter of free values only. -/
theorem settleWbusy_cases (s t : State) :
    settleWbusy s t = t
      ∨ settleWbusy s t = { t with status := { t.status with wbusy := Config.freeBit t.fresh }, fresh := t.fresh + 1 } := by
  unfold settleWbusy
  split
  · exact .inr rfl
  · exact .inl rfl

end Sys2Proof.Machine
end

