-- ==== Sys2Proof/Laws/PerInstr.lean ====
section
/-! SUPPORT. Families of statements about every command, one lemma per constructor. -/

namespace Sys2Proof.Laws.EncodeWellFormed

/-- The word of the command passes the checks of spec/30_encoding.md R83 one by one, and its opcode field is the opcode
that R81 gives the command. -/
def Statement (i : Instr) : Prop := wordWellFormed (encode i) = true ∧ opcodeField (encode i) = opcode i

theorem nop : Statement .nop := by unfold Statement; decide
theorem errClear : Statement .errClear := by unfold Statement; decide
theorem sreset : Statement .sreset := by unfold Statement; decide
theorem crcInit : Statement .crcInit := by unfold Statement; decide
theorem crcUpdate : Statement .crcUpdate := by unfold Statement; decide
theorem bwtFwd : Statement .bwtFwd := by unfold Statement; decide
theorem bwtInv : Statement .bwtInv := by unfold Statement; decide
theorem hufCount : Statement .hufCount := by unfold Statement; decide
theorem hufBuild : Statement .hufBuild := by unfold Statement; decide
theorem hufWtable : Statement .hufWtable := by unfold Statement; decide
theorem hufRtable : Statement .hufRtable := by unfold Statement; decide
theorem bitPack : Statement .bitPack := by unfold Statement; decide
theorem bitUnpack : Statement .bitUnpack := by unfold Statement; decide
theorem ctrFrame (flags : Byte) : Statement (.ctrFrame flags) := by
  have h : opcodeField (encode (.ctrFrame flags)) = 0x50 := by
    apply BitVec.eq_of_getLsbD_eq
    intro k hk
    simp only [opcodeField, encode, opcode, optByte, BitVec.getLsbD_extractLsb', BitVec.getLsbD_append]
    simp [hk]
  have hr : wordReservedOk (encode (.ctrFrame flags)) = true := by
    have : (encode (.ctrFrame flags)).extractLsb' 16 16 = 0 := by
      apply BitVec.eq_of_getLsbD_eq
      intro k hk
      simp only [encode, optByte, BitVec.getLsbD_extractLsb', BitVec.getLsbD_append]
      rw [if_neg (by omega), if_neg (by omega)]
      simp
    simp [wordReservedOk, this]
  refine ⟨?_, h⟩
  unfold opcodeField at h
  simp only [wordWellFormed, wordOpcodeOk, wordOptionOk, hr, h]
  simp [opcodeList]
theorem ctrUnframe : Statement .ctrUnframe := by unfold Statement; decide
theorem ctrRepl : Statement .ctrRepl := by unfold Statement; decide

end Sys2Proof.Laws.EncodeWellFormed
end

