-- ==== Sys2Proof/Tests/Slice0.lean ====
section
/-! SUPPORT. Tests. The expected values come from spec/95_test_vectors.md (the section is named at each test), with
BUF_BYTES = MAX_BLOCK = 0x400 and the four bytes of MAGIC taken as 11 22 33 44; the witnesses show that the hypotheses of
each statement can be met, clause by clause. -/

namespace Sys2Proof.Tests

open Sys2Proof Sys2Proof.Machine Sys2Proof.Spec

-- One kernel check at a time: as many threads as there are theorems would go past the memory limit of a build.
set_option Elab.async false

/-! ### Helpers -/

/-- The bytes of a small BUF, from an address on. -/
def cells (a : Nat) (bs : List Byte) : Memory := (List.range bs.length).zip bs |>.map fun p => (a + p.1, p.2)

/-- An idle engine with the operands SRC_ADDR, SRC_LEN, DST_ADDR, DST_CAP, AUX (those not given are 0) and a BUF. -/
def idle (ops : List Word) (m : Memory) : State :=
  { State.reset with
    params := ⟨0x3FF, 0x400, 0x11223344, 0x1234⟩, buf := m
    srcAddr := ops.getD 0 0, srcLen := ops.getD 1 0, dstAddr := ops.getD 2 0, dstCap := ops.getD 3 0
    aux := ops.getD 4 0 }

/-- The host is about to write the word to CMD. -/
def offer (w : Word) (s : State) : State := { s with host := [.regWrite 0x004 4 w] }

/-- An engine with the error ILLEGAL_COMMAND 1 of the word 3 recorded. -/
def failed (s : State) : State := errorState 3 7 1 { s with cmd := 3 }

/-- The LEN table with the given lengths, 0 elsewhere. -/
def lengths (ps : List (Byte × Byte)) : Table Byte := Table.ofFn fun v => (ps.lookup v).getD 0

/-- The code lengths of "abracadabra" (2.4). -/
def abra : Table Byte := lengths [(0x61, 1), (0x62, 3), (0x63, 4), (0x64, 4), (0x72, 2)]

/-- The serialized table of "abracadabra" (2.4). -/
def abraClt : List Byte := [0x04, 0x61, 0x01, 0x62, 0x03, 0x63, 0x04, 0x64, 0x04, 0x72, 0x02]

/-- The bytes of "abracadabra". -/
def abraBlock : List Byte := [0x61, 0x62, 0x72, 0x61, 0x63, 0x61, 0x64, 0x61, 0x62, 0x72, 0x61]

/-- The 16-byte RAW container of "abc" (1.1). -/
def rawAbc : List Byte :=
  [0x11, 0x22, 0x33, 0x44, 0x00, 0x00, 0x00, 0x03, 0x04, 0x35, 0x24, 0x41, 0xC2, 0x61, 0x62, 0x63]

/-- The outcome is a next state with the property. -/
def after (r : Result) (p : State → Bool) : Bool :=
  match r with
  | .next s => p s
  | .fault _ => false
  | .refused _ => false

/-- The step stops with this fault. -/
def faultsWith (r : Result) (f : Fault) : Bool :=
  match r with
  | .next _ => false
  | .fault g => g == f
  | .refused _ => false

/-- The step is refused for this reason. -/
def refusedFor (r : Result) (f : Refusal) : Bool :=
  match r with
  | .next _ => false
  | .fault _ => false
  | .refused g => g == f

theorem after_spec {r : Result} {p : State → Bool} (h : after r p = true) : ∃ t, r = .next t ∧ p t = true := by
  cases r with
  | next s => exact ⟨s, rfl, h⟩
  | fault _ => cases h
  | refused _ => cases h

/-! ### Well-formedness: each check refuses an ill-formed term -/

theorem test_wf_refuses_opcode : wordOpcodeOk 0x00000003 = false ∧ wordWellFormed 0x00000003 = false := by decide

theorem test_wf_refuses_reserved : wordReservedOk 0x00010010 = false ∧ wordWellFormed 0x00010010 = false := by decide

theorem test_wf_refuses_option : wordOptionOk 0x00000101 = false ∧ wordWellFormed 0x00000101 = false := by decide

theorem test_wf_refuses_flag_bits : flagsReservedOk 0x08 = false ∧ flagsCombinationOk 0x06 = false := by decide

theorem test_wf_refuses_access :
    regAccessAligned 0x010 2 = false ∧ regAccessAligned 0x012 4 = false ∧ regAccessInWindow 0x1400 = false := by decide

/-! ### Decoding: the words of 30_encoding.md R81, written out as reserved field, option byte, opcode -/

theorem test_decode_nop : decode 0b0000000000000000_00000000_00000000 = .ok .nop := rfl
theorem test_decode_errClear : decode 0b0000000000000000_00000000_00000001 = .ok .errClear := rfl
theorem test_decode_sreset : decode 0b0000000000000000_00000000_00000010 = .ok .sreset := rfl
theorem test_decode_crcInit : decode 0b0000000000000000_00000000_00010000 = .ok .crcInit := rfl
theorem test_decode_crcUpdate : decode 0b0000000000000000_00000000_00010001 = .ok .crcUpdate := rfl
theorem test_decode_bwtFwd : decode 0b0000000000000000_00000000_00100000 = .ok .bwtFwd := rfl
theorem test_decode_bwtInv : decode 0b0000000000000000_00000000_00100001 = .ok .bwtInv := rfl
theorem test_decode_hufCount : decode 0b0000000000000000_00000000_00110000 = .ok .hufCount := rfl
theorem test_decode_hufBuild : decode 0b0000000000000000_00000000_00110001 = .ok .hufBuild := rfl
theorem test_decode_hufWtable : decode 0b0000000000000000_00000000_00110010 = .ok .hufWtable := rfl
theorem test_decode_hufRtable : decode 0b0000000000000000_00000000_00110011 = .ok .hufRtable := rfl
theorem test_decode_bitPack : decode 0b0000000000000000_00000000_01000000 = .ok .bitPack := rfl
theorem test_decode_bitUnpack : decode 0b0000000000000000_00000000_01000001 = .ok .bitUnpack := rfl
theorem test_decode_ctrFrame : decode 0b0000000000000000_11110101_01010000 = .ok (.ctrFrame 0b11110101) := rfl
theorem test_decode_ctrUnframe : decode 0b0000000000000000_00000000_01010001 = .ok .ctrUnframe := rfl
theorem test_decode_ctrRepl : decode 0b0000000000000000_00000000_01010010 = .ok .ctrRepl := rfl

theorem test_decode_rejects_by_name :
    decode 0x00000060 = .error .reservedOpcode ∧ decode 0x0000FF00 = .error .reservedBits
      ∧ decode 0x00010050 = .error .reservedBits := ⟨rfl, rfl, rfl⟩

/-- The first step after reset runs each command of the table (operands all 0). -/
theorem test_fetch_word_runs :
    ([0x00, 0x01, 0x02, 0x10, 0x11, 0x20, 0x21, 0x30, 0x31, 0x32, 0x33, 0x40, 0x41, 0x50, 0x51, 0x52].all fun w =>
      after (step (State.reset.withFetchWord 32 w)) fun t => t.cmd == BitVec.ofNat 32 w && !t.status.busy) = true := by
  decide +kernel

/-! ### One step of each command -/

/-- 2.1: NOP from STATUS 0x0A gives STATUS 0x02. -/
theorem test_nop_clears_warn :
    after (step (offer 0x00 { idle [] [] with status := ⟨false, true, false, true, false⟩ }))
      (fun t => readReg t .status == 0x02) = true := by decide +kernel

/-- 2.1: ERR.CLEAR after an error gives ERRCODE 0 and STATUS 0x02. -/
theorem test_errClear :
    after (step (offer 0x01 (failed (idle [] [])))) (fun t => t.errcode == 0 && readReg t .status == 0x02) = true := by
  decide +kernel

/-- 2.1: SRESET after an error. -/
theorem test_sreset :
    after (step (offer 0x02 { failed (idle [7, 7] (cells 5 [9])) with crcState := 1 }))
      (fun t => t.cmd == 2 && readReg t .status == 0x02 && t.crcState == 0xFFFFFFFF && t.srcLen == 0
        && readBuf t 5 == 9) = true := by decide +kernel

/-- 2.1: a reserved opcode and a set reserved bit. -/
theorem test_illegal_words :
    after (step (offer 0x60 (idle [] []))) (fun t => t.errcode == 0x00600107 && readReg t .status == 0x04) = true
      ∧ after (step (offer 0x10010 (idle [] []))) (fun t => t.errcode == 0x00100207) = true := by decide +kernel

/-- 2.1: a word discarded while ERR is 1. -/
theorem test_discarded :
    after (step (offer 0x10 { failed (idle [] []) with crcState := 1 }))
      (fun t => t.errcode == 0x00030107 && t.cmd == 3 && t.crcState == 1 && readReg t .status == 0x04) = true := by
  decide +kernel

/-- 2.2: CRC.INIT. -/
theorem test_crcInit :
    after (step (offer 0x10 { idle [] [] with crcState := 5 }))
      (fun t => t.crcState == 0xFFFFFFFF && t.resAux == 0 && readReg t .crcValue == 0) = true := by decide +kernel

/-- 2.2: CRC.UPDATE of "123456789". -/
theorem test_crcUpdate :
    after (step (offer 0x11 (idle [0, 9] (cells 0 [0x31, 0x32, 0x33, 0x34, 0x35, 0x36, 0x37, 0x38, 0x39]))))
      (fun t => t.crcState == 0x340BC6D9 && t.resLen == 9 && t.resAux == 0xCBF43926) = true := by decide +kernel

/-- 2.2: CRC.UPDATE 0x3FF, 2. -/
theorem test_crcUpdate_bounds :
    after (step (offer 0x11 (idle [0x3FF, 2] []))) (fun t => t.errcode == 0x00110108) = true := by decide +kernel

/-- 2.3: BWT.FWD of "banana". -/
theorem test_bwtFwd :
    after (step (offer 0x20 (idle [0, 6, 0x100, 0x100] (cells 0 [0x62, 0x61, 0x6E, 0x61, 0x6E, 0x61]))))
      (fun t => memRead t 0x100 6 == [0x6E, 0x6E, 0x62, 0x61, 0x61, 0x61] && t.resAux == 3) = true := by decide +kernel

/-- 2.3: BWT.FWD of "abab", where rotations tie. -/
theorem test_bwtFwd_tie :
    after (step (offer 0x20 (idle [0, 4, 0x100, 0x100] (cells 0 [0x61, 0x62, 0x61, 0x62]))))
      (fun t => memRead t 0x100 4 == [0x62, 0x62, 0x61, 0x61] && t.resAux == 0) = true := by decide +kernel

/-- 2.3: BWT.INV of "nnbaaa" from 3. -/
theorem test_bwtInv :
    after (step (offer 0x21 (idle [0, 6, 0x100, 0x100, 3] (cells 0 [0x6E, 0x6E, 0x62, 0x61, 0x61, 0x61]))))
      (fun t => memRead t 0x100 6 == [0x62, 0x61, 0x6E, 0x61, 0x6E, 0x61] && t.resLen == 6 && t.resAux == 3) = true := by
  decide +kernel

/-- 2.3: BWT.INV of "aba" from 1: the walk does not return. -/
theorem test_bwtInv_walk :
    after (step (offer 0x21 (idle [0, 3, 0x100, 0x100, 1] (cells 0 [0x61, 0x62, 0x61]))))
      (fun t => t.errcode == 0x00210204 && t.buf == cells 0 [0x61, 0x62, 0x61]) = true := by decide +kernel

/-- 2.4: HUF.COUNT of "abracadabra". -/
theorem test_hufCount :
    after (step (offer 0x30 (idle [0, 11] (cells 0 abraBlock))))
      (fun t => t.freq.get 0x61 == 5 && t.freq.get 0x72 == 2 && t.freq.get 0x65 == 0 && t.resLen == 11
        && t.resAux == 5) = true := by decide +kernel

/-- 2.4: HUF.BUILD with FREQ[0x41] = 5, FREQ[0x42] = 3, FREQ[0x43] = 3. -/
theorem test_hufBuild :
    after (step (offer 0x31 { idle [] [] with
        freq := Table.set (Table.set (Table.set (Table.fill 0) 0x41 5) 0x42 3) 0x43 3 }))
      (fun t => t.len.get 0x41 == 1 && t.code.get 0x42 == 2 && t.code.get 0x43 == 3 && t.nsym == 3
        && t.maxlen == 2) = true := by decide +kernel

/-- 2.4: HUF.WTABLE for "abracadabra". -/
theorem test_hufWtable :
    after (step (offer 0x32 (loadTable abra (idle [0, 0, 0x200, 0x100] []))))
      (fun t => memRead t 0x200 11 == abraClt && t.resLen == 11 && t.resAux == 5) = true := by decide +kernel

/-- 2.4: HUF.RTABLE of that table. -/
theorem test_hufRtable :
    after (step (offer 0x33 (idle [0, 11] (cells 0 abraClt))))
      (fun t => t.code.get 0x64 == 15 && t.code.get 0x72 == 2 && t.maxlen == 4 && t.resLen == 11) = true := by
  decide +kernel

/-- 2.4: HUF.RTABLE of 00 41 02 empties the table. -/
theorem test_hufRtable_lone :
    after (step (offer 0x33 (loadTable abra (idle [0, 3] (cells 0 [0x00, 0x41, 0x02])))))
      (fun t => t.errcode == 0x00330505 && t.nsym == 0 && t.len.get 0x61 == 0) = true := by decide +kernel

/-- 2.5: BIT.PACK of "abracadabra". -/
theorem test_bitPack :
    after (step (offer 0x40 (loadTable abra (idle [0, 11, 0x200, 0x100] (cells 0 abraBlock)))))
      (fun t => memRead t 0x200 3 == [0x69, 0xCF, 0x68] && t.resLen == 3 && t.resAux == 1) = true := by decide +kernel

/-- 2.5: BIT.PACK of "abz". -/
theorem test_bitPack_uncoded :
    after (step (offer 0x40 (loadTable abra (idle [0, 3, 0x200, 4] (cells 0 [0x61, 0x62, 0x7A])))))
      (fun t => t.errcode == 0x00407A0B && readReg t .status == 0x04) = true := by decide +kernel

/-- 2.5: BIT.UNPACK of 69 CF 68 with T = 11. -/
theorem test_bitUnpack :
    after (step (offer 0x41 (loadTable abra (idle [0, 3, 0x200, 0x100, 11] (cells 0 [0x69, 0xCF, 0x68])))))
      (fun t => memRead t 0x200 11 == abraBlock && t.resLen == 11 && t.resAux == 3) = true := by decide +kernel

/-- 2.5: BIT.UNPACK with T = 13 runs out of bits. -/
theorem test_bitUnpack_short :
    after (step (offer 0x41 (loadTable abra (idle [0, 3, 0x200, 0x100, 13] (cells 0 [0x69, 0xCF, 0x68])))))
      (fun t => t.errcode == 0x00410106) = true := by decide +kernel

/-- 1.1: CTR.FRAME of "abc" as RAW. -/
theorem test_ctrFrame :
    after (step (offer 0x0450 (idle [0, 3, 0x200, 0x100, 3] (cells 0 [0x61, 0x62, 0x63]))))
      (fun t => memRead t 0x200 16 == rawAbc && t.resLen == 16 && t.resAux == 0x352441C2) = true := by decide +kernel

/-- 2.6: CTR.FRAME with both R and D. -/
theorem test_ctrFrame_combination :
    after (step (offer 0x0650 (idle [0, 3, 0x200, 0x100, 3] (cells 0 [0x61, 0x62, 0x63]))))
      (fun t => t.errcode == 0x0050020C) = true := by decide +kernel

/-- 1.1, 2.6: CTR.UNFRAME of the RAW container of "abc". -/
theorem test_ctrUnframe :
    after (step (offer 0x51 (idle [0, 16] (cells 0 rawAbc))))
      (fun t => t.resLen == 3 && t.resAux == 3 && t.resAddr == 13 && t.resFlags == 0x304 && readReg t .status == 0x02)
      = true := by decide +kernel

/-- 1.2: CTR.UNFRAME of its first 12 bytes. -/
theorem test_ctrUnframe_short :
    after (step (offer 0x51 (idle [0, 12] (cells 0 rawAbc)))) (fun t => t.errcode == 0x00510102) = true := by
  decide +kernel

/-- 45_container.md R186: three copies of the byte 0x41. -/
theorem test_ctrRepl :
    after (step (offer 0x52 (idle [0, 1, 0x200, 0x100, 3] (cells 0 [0x41]))))
      (fun t => memRead t 0x200 3 == [0x41, 0x41, 0x41] && t.resLen == 3 && t.resAux == 0x41) = true := by decide +kernel

/-! ### The host's side -/

/-- The four ways a step stops. -/
theorem test_stops :
    faultsWith (step { idle [] [] with host := [.bufRead 0x400] }) .bufAddress = true
      ∧ faultsWith (step { accept 0x20 (idle [0, 6, 0x100, 0x100] []) with host := [.bufWrite 0x1FF 0] }) .hostRace
        = true
      ∧ refusedFor (step { idle [] [] with host := [.regRead 0x010 2] }) .registerAccess = true
      ∧ refusedFor (step { idle [] [] with host := [.regWrite 0x1400 4 0] }) .outsideWindow = true := by decide +kernel

/-- 30_encoding.md R86: `CRC.UPDATE 0, 3` as a pseudo-instruction, its last read being STATUS. -/
theorem test_pseudo_program :
    pseudo .crcUpdate [0, 3]
      = [.regWrite 0x010 4 0, .regWrite 0x014 4 3, .regWrite 0x004 4 0x11, .complete, .regRead 0x008 4] := by decide

/-! ### Witnesses: the hypotheses of each statement can be met

A theorem `test_meets_<statement>` shows concrete values that meet the hypotheses of that statement, one conjunct or one
theorem per clause, at the ends of the clause's range. -/

theorem inv_loaded (lens : Table Byte) (ops : List Word) (m : Memory) (hw : m.wf) (hi : ∀ c ∈ m, c.1 < 0x400) :
    Inv (loadTable lens (idle ops m)) where
  bufSorted := hw
  bufInside := hi
  epochUsed := by show 0 < 1; decide
  codeCanonical := rfl
  nsymAgrees := rfl
  maxlenAgrees := rfl
  doneNotErr := by intro h; cases h
  busyNotDone := by intro h; cases h
  busyErr := by intro h; cases h
  warnDone := by intro h; cases h
  errcodeErr := by constructor <;> intro h <;> first | exact absurd rfl h | cases h
  errcodeReserved := by show (0 : Word).extractLsb' 24 8 = 0; decide
  errcodeClass := by show ((0 : Word).extractLsb' 0 8).toNat ≤ 13; decide
  errcodeNamesCommand := by intro h; cases h
  errResults := by intro h; cases h
  resFlagsReserved := by show (0 : Word).extractLsb' 10 22 = 0; decide

/-- An engine after an error, with a table loaded. -/
def failedLoaded (lens : Table Byte) : State := failed (loadTable lens (idle [] []))

theorem inv_failed (lens : Table Byte) : Inv (failedLoaded lens) where
  bufSorted := List.Pairwise.nil
  bufInside := by intro c h; cases h
  epochUsed := by show 0 < 1; decide
  codeCanonical := rfl
  nsymAgrees := rfl
  maxlenAgrees := rfl
  doneNotErr := by intro h; cases h
  busyNotDone := by intro h; cases h
  busyErr := by intro h; cases h
  warnDone := by intro h; cases h
  errcodeErr := ⟨fun _ => rfl, fun _ => by show BitVec.ofNat 32 _ ≠ 0; decide⟩
  errcodeReserved := by show (BitVec.ofNat 32 _).extractLsb' 24 8 = 0; decide
  errcodeClass := by show ((BitVec.ofNat 32 _).extractLsb' 0 8).toNat ≤ 13; decide
  errcodeNamesCommand := by
    intro _ _
    show (BitVec.ofNat 32 _).extractLsb' 16 8 = opcodeField 3
    decide
  errResults := fun _ => ⟨rfl, rfl, rfl, rfl, rfl⟩
  resFlagsReserved := by show (0 : Word).extractLsb' 10 22 = 0; decide

/-- The same engine while ERR.CLEAR runs. -/
def acknowledging (lens : Table Byte) : State := accept 1 (failedLoaded lens)

theorem inv_acknowledging (lens : Table Byte) : Inv (acknowledging lens) :=
  { inv_failed lens with
    doneNotErr := by intro h; cases h
    busyNotDone := fun _ => ⟨rfl, rfl⟩
    busyErr := fun _ _ => by show acknowledges 1 = true; decide
    warnDone := by intro h; cases h
    errcodeNamesCommand := by intro _ h; cases h }

theorem symbols_eq (lens : Table Byte) : symbols lens = coded lens := by
  rw [symbols, coded, Table.support_eq]
  refine List.filter_congr fun v _ => ?_
  simp only [decide_eq_decide, Nat.pos_iff_ne_zero]
  exact not_congr ⟨fun h => BitVec.eq_of_toNat_eq h, fun h => by rw [h]; rfl⟩

theorem complete_abra : CompleteTable abra := by
  have h : (abra.entries.all fun l => decide (l.toNat ≤ 64)) = true := by decide +kernel
  exact Or.inr (Or.inr
    ⟨by decide +kernel, fun v => of_decide_eq_true (List.all_eq_true.1 h _ (List.getElem_mem _)), by decide +kernel⟩)

theorem complete_lone : CompleteTable (lengths [(0x41, 1)]) := Or.inr (Or.inl ⟨0x41, by decide +kernel⟩)

theorem complete_empty : CompleteTable (Table.fill 0) := Or.inl (by decide +kernel)

/-- BWT.FWD of "banana", the block ending where the destination begins. -/
def banana : State := idle [0xFA, 6, 0x100, 6] (cells 0xFA [0x62, 0x61, 0x6E, 0x61, 0x6E, 0x61])

/-- "nnbaaa" and its primary index. -/
def nnbaaa : State := idle [0xFA, 6, 0x100, 6, 3] (cells 0xFA [0x6E, 0x6E, 0x62, 0x61, 0x61, 0x61])

/-- "abracadabra" with its table, the destination of 3 bytes at the end of BUF. -/
def packing : State := loadTable abra (idle [0, 11, 0x3FD, 3] (cells 0 abraBlock))

/-- The packed "abracadabra" at the end of BUF. -/
def unpacking : State := loadTable abra (idle [0x3FD, 3, 0x200, 11, 11] (cells 0x3FD [0x69, 0xCF, 0x68]))

/-- The container of the RAW block "abc". -/
def framing : State := idle [0, 3, 0x3F0, 16, 3] (cells 0 [0x61, 0x62, 0x63])

theorem test_meets_HardwareResetRestoresRegisters : { packing with host := [.hwReset] }.host = .hwReset :: [] := rfl

theorem test_meets_SresetMatchesHardwareReset :
    (∃ t, exec .sreset packing = .next t) ∧ ∃ u, step { packing with host := .hwReset :: [] } = .next u :=
  ⟨⟨_, rfl⟩, ⟨_, rfl⟩⟩

theorem test_meets_StepKeepsInvariant :
    Inv { packing with host := [.bufWrite 0x3FF 1] } ∧ ∃ t, step { packing with host := [.bufWrite 0x3FF 1] } = .next t :=
  ⟨{ inv_loaded abra [0, 11, 0x3FD, 3] (cells 0 abraBlock) (by decide) (by decide) with }, by
    obtain ⟨t, h, _⟩ := after_spec (r := step { packing with host := [.bufWrite 0x3FF 1] }) (p := fun _ => true)
      (by decide +kernel)
    exact ⟨t, h⟩⟩

theorem test_meets_StepKeepsCompleteTable :
    CompleteTable (offer 0x40 packing).len ∧ ∃ t, step (offer 0x40 packing) = .next t :=
  ⟨complete_abra, by
    obtain ⟨t, h, _⟩ := after_spec (r := step (offer 0x40 packing)) (p := fun _ => true) (by decide +kernel)
    exact ⟨t, h⟩⟩

theorem test_meets_RegisterMapMatchesOffsets :
    (0x044 % 4 = 0 ∧ regAt 0x044 = some .maxlen) ∧ (0x13FC % 4 = 0 ∧ regAt 0x13FC = some (.codeHi 0xFF))
      ∧ (0x048 % 4 = 0 ∧ 0x044 < 0x048 ∧ 0x048 < 0x400) ∧ (0x3FC % 4 = 0 ∧ 0x044 < 0x3FC ∧ 0x3FC < 0x400)
      ∧ 0x1400 % 4 = 0 ∧ 0x044 < 0x1400 ∧ 0x1400 ≤ 0x1400 := by decide

theorem test_meets_RegisterAccessForms :
    ¬ (2 = 4 ∧ 0x010 % 4 = 0) ∧ ¬ (4 = 4 ∧ 0x013 % 4 = 0)
      ∧ (0x048 % 4 = 0 ∧ 0x044 < 0x048 ∧ 0x048 < 0x400) ∧ (0x3FC % 4 = 0 ∧ 0x044 < 0x3FC ∧ 0x3FC < 0x400) := by decide

theorem test_meets_ReadOnlyWritesIgnored :
    ∀ off ∈ [0x000, 0x044, 0x800, 0x13FC],
      off % 4 = 0 ∧ off < 0x1400 ∧ (off ≤ 0x044 ∨ 0x400 ≤ off) ∧ ¬ WritableOffset off := by decide

theorem test_meets_BusyWritesDropped :
    (accept 0x40 packing).status.busy = true ∧ ∀ off ∈ [0x004, 0x038, 0x400, 0x7FC], off % 4 = 0 ∧ WritableOffset off := by
  decide

theorem test_meets_RegisterWritesReadBack :
    packing.status.busy = false
      ∧ ∀ r ∈ [Reg.srcAddr, .aux, .crcState, .freq 0x00, .freq 0xFF], WritableOffset (regOffset r) ∧ r ≠ .cmd := by decide

theorem test_meets_RegisterReadsReturnValue :
    (packing.status.busy = false ∨ ¬ UnspecifiedWhileBusy .nsym)
      ∧ ((accept 0x40 packing).status.busy = false ∨ ¬ UnspecifiedWhileBusy .status)
      ∧ (accept 0x40 packing).status.busy = true ∧ UnspecifiedWhileBusy .nsym :=
  ⟨Or.inl rfl, Or.inr id, rfl, trivial⟩

theorem test_meets_BufAccessReadsBack :
    packing.status.busy = false ∧ (0x3FF : Word).toNat ≤ packing.params.bufLast.toNat := by decide

theorem test_meets_IllegalWordsRaise :
    ((idle [] []).status.busy = false ∧ (idle [] []).status.err = false)
      ∧ ((failedLoaded abra).status.busy = false ∧ (failedLoaded abra).status.err = true)
      ∧ ((0x00000003 : Word).toNat % 0x100 ∉
          [0x00, 0x01, 0x02, 0x10, 0x11, 0x20, 0x21, 0x30, 0x31, 0x32, 0x33, 0x40, 0x41, 0x50, 0x51, 0x52])
      ∧ (0x00010050 : Word).toNat / 0x10000 ≠ 0
      ∧ (0x00000101 : Word).toNat / 0x100 % 0x100 ≠ 0 ∧ (0x00000101 : Word).toNat % 0x100 ≠ 0x50 := by decide

theorem test_meets_StepRunsDecodedCommand :
    (packing.status.busy = false ∧ packing.status.err = false ∧ decode 0x40 = .ok .bitPack)
      ∧ (failedLoaded abra).status.busy = false ∧ decode 0x00000002 = .ok .sreset :=
  ⟨⟨rfl, rfl, rfl⟩, rfl, rfl⟩

theorem test_meets_DiscardedWordChangesNothing :
    (failedLoaded abra).status.busy = false ∧ (failedLoaded abra).status.err = true
      ∧ (0x00000101 : Word) ≠ 0x00000001 ∧ (0x00000101 : Word) ≠ 0x00000002 := by decide

theorem test_meets_EmptyScheduleStep :
    (packing.host = [] ∧ packing.status.busy = false)
      ∧ (accept 0x40 packing).host = [] ∧ (accept 0x40 packing).status.busy = true := ⟨⟨rfl, rfl⟩, rfl, rfl⟩

theorem test_meets_SpanEqualsAtomicCommand :
    Inv packing ∧ packing.status.busy = false ∧ (0x3FC : Word).toNat ≤ packing.params.bufLast.toNat
      ∧ inFlight (accept 0x40 packing) (0x3FC : Word).toNat = false :=
  ⟨inv_loaded _ _ _ (by decide) (by decide), by decide +kernel⟩

theorem test_meets_NopRule : packing.status.busy = false ∧ packing.status.err = false := ⟨rfl, rfl⟩

theorem test_meets_ErrClearRule : (failedLoaded abra).status.busy = false := rfl

theorem test_meets_SresetRule : (failedLoaded abra).status.busy = false := rfl

theorem test_meets_CrcUpdateRule :
    InBuf packing.params 0x3FF 1 ∧ InBuf packing.params 0x401 0 ∧ ¬ InBuf packing.params 0x3FF 2 := by decide

theorem test_meets_CrcUpdatesStream :
    (idle [0x3F7] []).srcAddr.toNat + 4 + 5 < 2 ^ 32
      ∧ (idle [0x3F7] []).srcAddr.toNat + 4 + 5 ≤ (idle [0x3F7] []).params.bufLast.toNat + 1 := by decide

theorem test_meets_BwtForwardRule :
    (BlockOk banana banana.srcLen ∧ RangesOk banana ∧ banana.srcLen.toNat ≤ banana.dstCap.toNat)
      ∧ (BlockOk (idle [] []) (idle [] []).srcLen ∧ RangesOk (idle [] []))
      ∧ commandError (idle [0, 0x401] []) .bwtFwd = some (1, 1)
      ∧ commandError (idle [0, 0x10, 0x100, 0xF] []) .bwtFwd = some (10, 0) := by decide +kernel

theorem test_meets_BwtInverseRule :
    (BlockOk nnbaaa nnbaaa.srcLen ∧ RangesOk nnbaaa ∧ nnbaaa.srcLen.toNat ≤ nnbaaa.dstCap.toNat
        ∧ nnbaaa.aux.toNat < nnbaaa.srcLen.toNat
        ∧ (lf (srcBytes nnbaaa))^[nnbaaa.srcLen.toNat] nnbaaa.aux.toNat = nnbaaa.aux.toNat)
      ∧ ((idle [] []).srcLen.toNat = 0 ∧ (idle [] []).aux.toNat = 0)
      ∧ commandError (idle [0, 3, 0x100, 3, 1] (cells 0 [0x61, 0x62, 0x61])) .bwtInv = some (4, 2)
      ∧ commandError (idle [0, 3, 0x100, 3, 3] (cells 0 [0x61, 0x62, 0x63])) .bwtInv = some (4, 1)
      ∧ commandError (idle [0, 0, 0, 0, 1] []) .bwtInv = some (4, 1) := by decide +kernel

theorem test_meets_BwtRoundTrip :
    ∃ t, exec .bwtFwd banana = .next t ∧ t.status.done = true ∧ InBuf banana.params 0x106 6
      ∧ ¬ Share banana.dstAddr banana.srcLen 0x106 6 ∧ banana.srcLen.toNat ≤ (6 : Word).toNat := by
  obtain ⟨t, h, p⟩ := after_spec (r := exec .bwtFwd banana) (p := fun t => t.status.done) (by decide +kernel)
  exact ⟨t, h, p, by decide⟩

theorem test_meets_HufCountRule :
    (BlockOk packing packing.srcLen ∧ InBuf packing.params packing.srcAddr packing.srcLen)
      ∧ ¬ BlockOk packing 0x401 ∧ BlockOk packing 0x400 ∧ ¬ InBuf packing.params 1 0x400 := by decide

theorem mergeDepth_le (n : Nat) (N : List Node) (v : Byte) : mergeDepth n N v ≤ n := by
  induction n generalizing N with
  | zero => exact Nat.le_refl 0
  | succ n ih =>
    rw [mergeDepth]
    split
    · exact Nat.zero_le _
    · split
      · exact Nat.zero_le _
      · rw [Nat.add_comm]
        refine Nat.add_le_add (ih _) ?_
        split <;> decide

/-- 2.4: the construction of R154, as the statements write it, on the frequencies of "abracadabra". -/
theorem test_huffLength_abra :
    ([0x61, 0x62, 0x63, 0x64, 0x72, 0x65].map
      (huffLength (Table.ofFn fun v => ([(0x61, 5), (0x62, 2), (0x63, 1), (0x64, 1), (0x72, 2)].lookup v).getD 0)))
      = [1, 3, 4, 4, 2, 0] := by decide +kernel

theorem test_meets_HufBuildRule : ∀ v, huffLength (Table.set (Table.set (Table.fill 0) 0x41 5) 0x42 3) v ≤ 64 := by
  have h : (allBytes.filter fun u =>
      0 < ((Table.set (Table.set (Table.fill (0 : Word)) 0x41 5) 0x42 3).get u).toNat).length = 2 := by decide +kernel
  intro v
  rw [huffLength, h, if_neg (by decide)]
  exact (mergeDepth_le _ _ _).trans (by decide)

theorem test_meets_LoneSymbolGetsOneBit :
    ((Table.set (Table.fill (0 : Word)) 0xFF 7).get 0xFF ≠ 0
        ∧ ∀ u, (Table.set (Table.fill (0 : Word)) 0xFF 7).get u ≠ 0 → u = 0xFF)
      ∧ ∀ u, (Table.fill (0 : Word)).get u = 0 :=
  ⟨⟨by decide, fun u h => by
    by_contra hu
    exact h (by rw [Table.get_set_ne _ _ hu, Table.get_fill])⟩, fun u => Table.get_fill 0 u⟩

theorem test_meets_CanonicalCodesPrefixFree :
    CompleteTable abra ∧ (0x61 : Byte) ≠ 0x72 ∧ 0 < (abra.get 0x61).toNat ∧ (abra.get 0x61).toNat ≤ (abra.get 0x72).toNat :=
  ⟨complete_abra, by decide +kernel⟩

theorem test_meets_CanonicalCodeIsPrefixSum :
    CompleteTable abra ∧ 0 < (abra.get 0x64).toNat ∧ CompleteTable (lengths [(0x41, 1)]) :=
  ⟨complete_abra, by decide +kernel, complete_lone⟩

theorem test_meets_HufWtableRule :
    (let s := loadTable abra (idle [0, 0, 0x3F5, 11] []);
      s.nsym.toNat = (symbols s.len).length ∧ InBuf s.params s.dstAddr s.dstCap ∧ s.nsym.toNat ≠ 0
        ∧ 1 + 2 * s.nsym.toNat ≤ s.dstCap.toNat)
      ∧ ((idle [] []).nsym.toNat = (symbols (idle [] []).len).length ∧ (idle [] []).nsym.toNat = 0)
      ∧ (let s := loadTable abra (idle [0, 0, 0x3F6, 10] []);
        s.nsym.toNat = (symbols s.len).length ∧ InBuf s.params s.dstAddr s.dstCap
          ∧ s.dstCap.toNat < 1 + 2 * s.nsym.toNat)
      ∧ ¬ InBuf (idle [] []).params 0x3F6 11 := by
  simp only [symbols_eq]
  decide +kernel

theorem test_meets_HufRtableReadsTable :
    let s := idle [0, 12] (cells 0 (abraClt ++ [0xEE]))
    InBuf s.params s.srcAddr s.srcLen ∧ CompleteTable abra ∧ symbols abra ≠ [] ∧ srcBytes s = clt abra ++ [0xEE] := by
  simp only [clt, symbols_eq]
  exact ⟨by decide, complete_abra, by decide +kernel, by decide +kernel⟩

/-- The hypotheses common to the second and third clause of `Obligations.HufRtableErrors`. -/
def PairsOk (ps : List (Byte × Byte)) : Prop :=
  ps.Pairwise (fun p q => p.1.toNat < q.1.toNat) ∧ ∀ p ∈ ps, 0 < p.2.toNat ∧ p.2.toNat ≤ 64

/-- 2.4: tables with missing bytes. -/
theorem test_meets_HufRtableErrors_missing :
    (InBuf (idle [] []).params 0 0 ∧ (idle [] []).srcLen.toNat = 0)
      ∧ (let s := idle [0, 4] (cells 0 [1, 0x61, 1, 0x62]);
        InBuf s.params s.srcAddr s.srcLen ∧ s.srcLen.toNat < 3 + 2 * (readBuf s s.srcAddr.toNat).toNat) := by
  decide +kernel

/-- 2.4: a repeated symbol (2), a length of 0 (3) and of 65 (4). -/
theorem test_meets_HufRtableErrors_pair :
    (let s := idle [0, 5] (cells 0 [1, 0x61, 1, 0x61, 1]);
      PairsOk [(0x61, 1)] ∧ InBuf s.params s.srcAddr s.srcLen
        ∧ srcBytes s = 1 :: [((0x61 : Byte), (1 : Byte))].flatMap (fun p => [p.1, p.2]) ++ 0x61 :: 1 :: []
        ∧ 1 ≤ (1 : Byte).toNat ∧ 3 + 2 * (1 : Byte).toNat ≤ s.srcLen.toNat ∧ (0x61 : Byte).toNat ≤ (0x61 : Byte).toNat)
      ∧ PairsOk [] ∧ ∀ l ∈ [(0 : Byte), 0x41], (let s := idle [0, 5] (cells 0 [1, 0x61, l, 0x62, 1]);
        InBuf s.params s.srcAddr s.srcLen
          ∧ srcBytes s = 1 :: ([] : List (Byte × Byte)).flatMap (fun p => [p.1, p.2]) ++ 0x61 :: l :: [0x62, 1]
          ∧ 3 + 2 * (1 : Byte).toNat ≤ s.srcLen.toNat ∧ (l = 0 ∨ 64 < l.toNat)) :=
  ⟨⟨by simp [PairsOk], by decide +kernel⟩, by simp [PairsOk], by decide +kernel⟩

/-- 2.4: a lone symbol of length 2 (5), three codes of length 1 (6), and a Kraft sum of 1/2 + 2^-64 (7). -/
theorem test_meets_HufRtableErrors_whole :
    (let s := idle [0, 3] (cells 0 [0, 0x41, 2]);
      PairsOk [(0x41, 2)] ∧ InBuf s.params s.srcAddr s.srcLen
        ∧ srcBytes s = BitVec.ofNat 8 (1 - 1) :: [((0x41 : Byte), (2 : Byte))].flatMap (fun p => [p.1, p.2]) ++ []
        ∧ (2 : Byte) ≠ 1)
      ∧ (let s := idle [0, 7] (cells 0 [2, 0x61, 1, 0x62, 1, 0x63, 1]);
        PairsOk [(0x61, 1), (0x62, 1), (0x63, 1)] ∧ InBuf s.params s.srcAddr s.srcLen
          ∧ srcBytes s = BitVec.ofNat 8 (3 - 1)
              :: [((0x61 : Byte), (1 : Byte)), (0x62, 1), (0x63, 1)].flatMap (fun p => [p.1, p.2]) ++ []
          ∧ 2 ^ 64 < ([((0x61 : Byte), (1 : Byte)), (0x62, 1), (0x63, 1)].map fun p => 2 ^ (64 - p.2.toNat)).sum)
      ∧ (let s := idle [0, 5] (cells 0 [1, 0x00, 0x40, 0x01, 1]);
        PairsOk [(0x00, 0x40), (0x01, 1)] ∧ InBuf s.params s.srcAddr s.srcLen
          ∧ srcBytes s = BitVec.ofNat 8 (2 - 1)
              :: [((0x00 : Byte), (0x40 : Byte)), (0x01, 1)].flatMap (fun p => [p.1, p.2]) ++ []
          ∧ ([((0x00 : Byte), (0x40 : Byte)), (0x01, 1)].map fun p => 2 ^ (64 - p.2.toNat)).sum < 2 ^ 64) :=
  ⟨⟨by simp [PairsOk], by decide +kernel⟩, ⟨by simp [PairsOk], by decide +kernel⟩, by simp [PairsOk], by decide +kernel⟩

theorem test_meets_BitPackRule :
    BlockOk packing packing.srcLen ∧ RangesOk packing ∧ (∀ v ∈ srcBytes packing, packing.len.get v ≠ 0)
      ∧ bytesOfBits (bitsOfBlock packing (srcBytes packing)).length = packing.dstCap.toNat := by decide +kernel

/-- "abz", with no code for "z", and "abracadabra" into 2 bytes: its eighth byte is the first that does not fit. -/
theorem test_meets_BitPackErrors :
    (let s := loadTable abra (idle [0, 3, 0x3FF, 1] (cells 0 [0x61, 0x62, 0x7A]));
      BlockOk s s.srcLen ∧ RangesOk s ∧ srcBytes s = [0x61, 0x62] ++ 0x7A :: [] ∧ (∀ u ∈ [0x61, 0x62], s.len.get u ≠ 0)
        ∧ bytesOfBits (bitsOfBlock s [0x61, 0x62]).length ≤ s.dstCap.toNat ∧ s.len.get 0x7A = 0)
      ∧ (let s := loadTable abra (idle [0, 11, 0x3FE, 2] (cells 0 abraBlock));
        BlockOk s s.srcLen ∧ RangesOk s ∧ srcBytes s = abraBlock.take 7 ++ 0x61 :: abraBlock.drop 8
          ∧ (∀ u ∈ abraBlock.take 7, s.len.get u ≠ 0)
          ∧ bytesOfBits (bitsOfBlock s (abraBlock.take 7)).length ≤ s.dstCap.toNat
          ∧ s.dstCap.toNat < bytesOfBits (bitsOfBlock s (abraBlock.take 7 ++ [0x61])).length) := by decide +kernel

theorem test_meets_BitUnpackRule :
    (Inv unpacking ∧ CompleteTable unpacking.len) ∧ BlockOk unpacking unpacking.aux ∧ RangesOk unpacking
      ∧ unpacking.aux.toNat ≤ unpacking.dstCap.toNat ∧ abraBlock.length = unpacking.aux.toNat
      ∧ (∀ v ∈ abraBlock, unpacking.len.get v ≠ 0)
      ∧ streamBits (srcBytes unpacking) = bitsOfBlock unpacking abraBlock ++ [false] :=
  ⟨⟨inv_loaded _ _ _ (by decide) (by decide), complete_abra⟩, by decide +kernel⟩

/-- A stream that holds "ad" and the first three bits of another "d". -/
def cutShort : State := loadTable abra (idle [0, 1, 0x200, 3, 3] (cells 0 [0x7F]))

/-- The packed "abracadabra" and one more symbol than its 24 bits hold. -/
def overrun : State := loadTable abra (idle [0, 3, 0x200, 13, 13] (cells 0 [0x69, 0xCF, 0x68]))

/-- A lone-symbol table and seven 0 bits before a 1 bit. -/
def loneOne : State := loadTable (lengths [(0x41, 1)]) (idle [0, 1, 0x200, 8, 8] (cells 0 [0x01]))

/-- 2.5: the stream runs out within a code and at once (detail 1), and holds a 1 bit with the lone-symbol table
(detail 2). -/
theorem test_meets_BitUnpackErrors :
    ((Inv cutShort ∧ CompleteTable cutShort.len) ∧ BlockOk cutShort cutShort.aux ∧ RangesOk cutShort
        ∧ cutShort.aux.toNat = cutShort.dstCap.toNat ∧ [(0x61 : Byte), 0x64].length < cutShort.aux.toNat
        ∧ cutShort.len.get 0x61 ≠ 0 ∧ cutShort.len.get 0x64 ≠ 0
        ∧ [true, true, true] <+: bitsOfCode cutShort 0x64 ∧ [true, true, true] ≠ bitsOfCode cutShort 0x64
        ∧ streamBits (srcBytes cutShort) = bitsOfBlock cutShort [0x61, 0x64] ++ [true, true, true])
      ∧ ((Inv overrun ∧ CompleteTable overrun.len) ∧ BlockOk overrun overrun.aux ∧ RangesOk overrun
        ∧ overrun.aux.toNat = overrun.dstCap.toNat ∧ (abraBlock ++ [0x61]).length < overrun.aux.toNat
        ∧ [] <+: bitsOfCode overrun 0x61 ∧ [] ≠ bitsOfCode overrun 0x61
        ∧ streamBits (srcBytes overrun) = bitsOfBlock overrun (abraBlock ++ [0x61]) ++ []
        ∧ 2 ≤ (coded overrun.len).length)
      ∧ (Inv loneOne ∧ CompleteTable loneOne.len) ∧ BlockOk loneOne loneOne.aux ∧ RangesOk loneOne
        ∧ loneOne.aux.toNat = loneOne.dstCap.toNat ∧ coded loneOne.len = [0x41] ∧ 7 < loneOne.aux.toNat
        ∧ streamBits (srcBytes loneOne) = List.replicate 7 false ++ true :: [] :=
  ⟨⟨⟨inv_loaded _ _ _ (by decide) (by decide), complete_abra⟩, by decide +kernel⟩,
    ⟨⟨inv_loaded _ _ _ (by decide) (by decide), complete_abra⟩, by decide +kernel⟩,
    ⟨inv_loaded _ _ _ (by decide) (by decide), complete_lone⟩, by decide +kernel⟩

/-- 2.5: the two details, for "abracadabra" with T = 13 and for the lone-symbol table. -/
theorem test_bitUnpack_details :
    after (exec .bitUnpack cutShort) (fun t => t.errcode == 0x00410106) = true
      ∧ after (exec .bitUnpack loneOne) (fun t => t.errcode == 0x00410206) = true := by decide +kernel

theorem test_meets_PackUnpackRoundTrip :
    (Inv packing ∧ CompleteTable packing.len) ∧ ∃ t, exec .bitPack packing = .next t ∧ t.status.done = true
      ∧ InBuf packing.params 0x3F2 11 ∧ ¬ Share packing.dstAddr t.resLen 0x3F2 11
      ∧ packing.srcLen.toNat ≤ (11 : Word).toNat := by
  obtain ⟨t, h, p⟩ := after_spec (r := exec .bitPack packing) (p := fun t => t.status.done && t.resLen == 3)
    (by decide +kernel)
  have p' : t.status.done = true ∧ t.resLen = 3 := by simpa using p
  exact ⟨⟨inv_loaded _ _ _ (by decide) (by decide), complete_abra⟩, t, h, p'.1, by decide, by rw [p'.2]; decide, by decide⟩

theorem test_meets_CtrFrameRule :
    BlockOk framing framing.aux ∧ RangesOk framing ∧ FlagsOk 0x04 ∧ framing.aux = framing.srcLen
      ∧ 13 + framing.srcLen.toNat = framing.dstCap.toNat ∧ FlagsOk 0x03
      ∧ commandError framing (.ctrFrame 0x08) = some (12, 1) ∧ commandError framing (.ctrFrame 0x06) = some (12, 2)
      ∧ commandError (idle [0, 3, 0x3F0, 16, 5] []) (.ctrFrame 0x04) = some (12, 3)
      ∧ commandError (idle [0, 3, 0x3F0, 15, 3] []) (.ctrFrame 0x04) = some (10, 0) := by decide +kernel

/-- The container of `rawAbc`, and containers of the other three paths, a TRANSFORM payload being of 4 bytes. -/
theorem test_meets_CtrUnframeRule :
    (let s := idle [0x3F0, 16] (cells 0x3F0 rawAbc);
      InBuf s.params s.srcAddr s.srcLen
        ∧ srcBytes s = containerBytes s.params.magic 3 (crc32 [0x61, 0x62, 0x63]) 0x04 [0x61, 0x62, 0x63]
        ∧ FlagsOk 0x04 ∧ BlockOk s 3 ∧ pathCode 0x04 = 3 ∧ s.srcAddr.toNat + 13 < 2 ^ 32)
      ∧ (∀ f ∈ [(0x00 : Byte), 0x01, 0x02, 0x03],
        let s := idle [0, 17] (cells 0 (containerBytes 0x11223344 3 (crc32 [0, 0, 0, 1]) f [0, 0, 0, 1]));
        InBuf s.params s.srcAddr s.srcLen
          ∧ srcBytes s = containerBytes s.params.magic 3 (crc32 [0, 0, 0, 1]) f [0, 0, 0, 1] ∧ FlagsOk f ∧ BlockOk s 3
          ∧ (pathCode f = 1 → 4 ≤ [0, 0, 0, (1 : Byte)].length)) := by decide +kernel

theorem test_meets_FrameUnframeRoundTrip :
    ∃ t, exec (.ctrFrame 0x04) framing = .next t ∧ t.status.done = true
      ∧ (pathCode 0x04 = 1 → 4 ≤ framing.srcLen.toNat) := by
  obtain ⟨t, h, p⟩ := after_spec (r := exec (.ctrFrame 0x04) framing) (p := fun t => t.status.done) (by decide +kernel)
  exact ⟨t, h, p, by decide⟩

/-- One bit of the payload flipped, and the checksum byte of 1.4 (e) replaced. -/
theorem test_meets_PayloadCorruptionDetected :
    (let s := idle [0, 16] (cells 0 (rawAbc.take 14 ++ 0x63 :: rawAbc.drop 15));
      InBuf s.params s.srcAddr s.srcLen ∧ (0x62 : Byte) ≠ 0x63
        ∧ srcBytes s = containerBytes s.params.magic 3 (crc32 ([0x61] ++ 0x62 :: [0x63])) 0x04 ([0x61] ++ 0x63 :: [0x63]))
      ∧ (let s := idle [0, 16] (cells 0 (rawAbc.take 10 ++ 0x25 :: rawAbc.drop 11));
        srcBytes s = containerBytes s.params.magic 3 0x352541C2 0x04 [0x61, 0x62, 0x63]
          ∧ (0x352541C2 : Word) ≠ crc32 [0x61, 0x62, 0x63]) := by decide +kernel

theorem test_meets_CtrReplRule :
    (let s := idle [0x3FF, 1, 0x3FC, 3, 3] (cells 0x3FF [0x41]);
      BlockOk s s.aux ∧ RangesOk s ∧ s.srcLen.toNat = 1 ∧ s.aux.toNat ≤ s.dstCap.toNat)
      ∧ commandError (idle [0, 2, 0x100, 9, 9] []) .ctrRepl = some (12, 4)
      ∧ commandError (idle [0, 1, 0x100, 8, 9] []) .ctrRepl = some (10, 0) := by decide +kernel

theorem test_meets_ErrorCompletionRule :
    commandError (idle [0x3FF, 2] []) .crcUpdate = some (8, 1)
      ∧ commandError (idle [0, 3] (cells 0 [0, 0x41, 2])) .hufRtable = some (5, 5)
      ∧ commandError (loadTable abra (idle [0, 1, 0x200, 1] (cells 0 [0x7A]))) .bitPack = some (11, 0x7A)
      ∧ commandError (loadTable abra (idle [0, 1, 0x200, 0] (cells 0 [0x61]))) .bitPack = some (10, 0) := by
  decide +kernel

theorem test_meets_EveryCommandEnds : (idle [] []).status.err = false := rfl

theorem test_meets_CommandsWriteOnlyDestination :
    packing.nsym.toNat = (symbols packing.len).length ∧ ∃ t, exec .bitPack packing = .next t ∧ t.status.done = true := by
  obtain ⟨t, h, p⟩ := after_spec (r := exec .bitPack packing) (p := fun t => t.status.done) (by decide +kernel)
  exact ⟨by rw [symbols_eq]; decide +kernel, t, h, p⟩

theorem test_meets_CommandRegisterFrame : ∃ t, exec .bwtFwd banana = .next t ∧ t.status.done = true := by
  obtain ⟨t, h, p⟩ := after_spec (r := exec .bwtFwd banana) (p := fun t => t.status.done) (by decide +kernel)
  exact ⟨t, h, p⟩

/-- Two states that agree on the operands and the source of BIT.PACK only. -/
theorem test_meets_ResultsDependOnlyOnOperands :
    let s' := loadTable abra (idle [0, 11, 0x3FD, 3] (cells 0 (abraBlock ++ [0x99])))
    Inv packing ∧ Inv s' ∧ packing.buf ≠ s'.buf ∧ packing.params = s'.params ∧ packing.len = s'.len
      ∧ (∀ a, packing.srcAddr.toNat ≤ a → a < packing.srcAddr.toNat + packing.srcLen.toNat →
        readBuf packing a = readBuf s' a)
      ∧ ∃ t t', exec .bitPack packing = .next t ∧ exec .bitPack s' = .next t' ∧ t.status.done = true := by
  obtain ⟨t, h, p⟩ := after_spec (r := exec .bitPack packing) (p := fun t => t.status.done) (by decide +kernel)
  obtain ⟨t', h', _⟩ := after_spec
    (r := exec .bitPack (loadTable abra (idle [0, 11, 0x3FD, 3] (cells 0 (abraBlock ++ [0x99]))))) (p := fun _ => true)
    (by decide +kernel)
  refine ⟨inv_loaded _ _ _ (by decide) (by decide), inv_loaded _ _ _ (by decide) (by decide), by decide, rfl, rfl, ?_,
    t, t', h, h', p⟩
  have key : ∀ a < 11, readBuf packing a = readBuf (loadTable abra (idle [0, 11, 0x3FD, 3] (cells 0 (abraBlock ++ [0x99])))) a := by
    decide +kernel
  exact fun a _ ha => key a ha

/-- An empty PLAIN container that ends one byte below address 2^32, so that RES_ADDR is 2^32 - 1. -/
def topContainer (bytes : List Byte) : State :=
  { loadTable (Table.fill 0) (idle [0xFFFFFFF2, 13] (cells 0xFFFFFFF2 bytes)) with
    params := ⟨0xFFFFFFFF, 0x400, 0x11223344, 0x1234⟩ }

/-- The WARN and RES_ADDR clauses, for CTR.UNFRAME at the highest address a register holds; the second BUF has one more
byte, outside the source range. -/
theorem test_meets_ResultsDependOnlyOnOperands_unframe :
    let s := topContainer (containerBytes 0x11223344 0 0 0 [])
    let s' := topContainer (containerBytes 0x11223344 0 0 0 [0x99])
    (Inv s ∧ Inv s') ∧ s.buf ≠ s'.buf ∧ s.status.warn = s'.status.warn
      ∧ (∀ a, s.srcAddr.toNat ≤ a → a < s.srcAddr.toNat + s.srcLen.toNat → readBuf s a = readBuf s' a)
      ∧ ∃ t t', exec .ctrUnframe s = .next t ∧ exec .ctrUnframe s' = .next t' ∧ t.status.done = true
        ∧ s.srcAddr.toNat + (if t.resFlags.extractLsb' 8 2 = 1 then 17 else 13) < 2 ^ 32 := by
  obtain ⟨t, h, p⟩ := after_spec (r := exec .ctrUnframe (topContainer (containerBytes 0x11223344 0 0 0 [])))
    (p := fun t => t.status.done && t.resFlags == 0) (by decide +kernel)
  obtain ⟨t', h', _⟩ := after_spec (r := exec .ctrUnframe (topContainer (containerBytes 0x11223344 0 0 0 [0x99])))
    (p := fun _ => true) (by decide +kernel)
  have p' : t.status.done = true ∧ t.resFlags = 0 := by simpa using p
  have base := inv_loaded (Table.fill 0) [0xFFFFFFF2, 13] [] List.Pairwise.nil (by decide)
  have inv : ∀ b, (topContainer b).buf.wf → (∀ c ∈ (topContainer b).buf, c.1 < (topContainer b).params.bufBytes) →
      Inv (topContainer b) := fun _ hw hi => { base with bufSorted := hw, bufInside := hi }
  have key : ∀ k < 13, readBuf (topContainer (containerBytes 0x11223344 0 0 0 [])) (0xFFFFFFF2 + k)
      = readBuf (topContainer (containerBytes 0x11223344 0 0 0 [0x99])) (0xFFFFFFF2 + k) := by decide +kernel
  have ha : ∀ b, (topContainer b).srcAddr.toNat = 0xFFFFFFF2 := fun _ => BitVec.toNat_ofNat ..
  have hn : ∀ b, (topContainer b).srcLen.toNat = 13 := fun _ => BitVec.toNat_ofNat ..
  refine ⟨⟨inv _ (by decide +kernel) (by decide +kernel), inv _ (by decide +kernel) (by decide +kernel)⟩,
    by decide +kernel, rfl, ?_, t, t', h, h', p'.1, ?_⟩
  · rw [ha, hn]
    intro a h1 h2
    have := key (a - 0xFFFFFFF2) (by omega)
    rwa [Nat.add_sub_cancel' h1] at this
  · rw [p'.2, ha]
    decide +kernel

theorem test_meets_ErrorsDoNotNest :
    (Inv (offer 1 (failedLoaded abra)) ∧ (offer 1 (failedLoaded abra)).status.err = true
        ∧ ∃ t, step (offer 1 (failedLoaded abra)) = .next t)
      ∧ (Inv (acknowledging abra) ∧ (acknowledging abra).status.err = true ∧ ∃ t, step (acknowledging abra) = .next t) := by
  obtain ⟨t, h, _⟩ := after_spec (r := step (offer 1 (failedLoaded abra))) (p := fun _ => true) (by decide +kernel)
  obtain ⟨u, k, _⟩ := after_spec (r := step (acknowledging abra)) (p := fun _ => true) (by decide +kernel)
  exact ⟨⟨{ inv_failed abra with }, rfl, t, h⟩, inv_acknowledging abra, rfl, u, k⟩

theorem test_meets_WbusyClearedOnlyByAcknowledge :
    ∃ t, step (offer 1 (dropWrite (failedLoaded abra))) = .next t
      ∧ (offer 1 (dropWrite (failedLoaded abra))).status.wbusy = true ∧ t.status.wbusy = false := by
  obtain ⟨t, h, p⟩ := after_spec (r := step (offer 1 (dropWrite (failedLoaded abra)))) (p := fun t => !t.status.wbusy)
    (by decide +kernel)
  exact ⟨t, h, rfl, by simpa using p⟩

end Sys2Proof.Tests
end

section
/-! The command word: its fields, and decoding as the inverse of encoding (30_encoding.md R80 to R84). -/

namespace Sys2Proof

/-- A command word is its three fields (30_encoding.md R80). -/
theorem fields_append (w : Word) : reservedField w ++ optField w ++ opcodeField w = w := by
  apply BitVec.eq_of_getLsbD_eq
  intro k hk
  simp only [reservedField, optField, opcodeField, BitVec.getLsbD_append, BitVec.getLsbD_extractLsb']
  split
  · simp_all
  · split
    · rw [show 8 + (k - 8) = k by omega]
      simp
      omega
    · rw [show 16 + (k - 8 - 8) = k by omega]
      simp
      omega

@[simp] theorem opcodeField_encode (i : Instr) : opcodeField (encode i) = opcode i := by
  apply BitVec.eq_of_getLsbD_eq
  intro k hk
  simp only [opcodeField, encode, BitVec.getLsbD_extractLsb', BitVec.getLsbD_append]
  simp [hk]

@[simp] theorem optField_encode (i : Instr) : optField (encode i) = optByte i := by
  apply BitVec.eq_of_getLsbD_eq
  intro k hk
  simp only [optField, encode, BitVec.getLsbD_extractLsb', BitVec.getLsbD_append]
  simp [hk]

@[simp] theorem reservedField_encode (i : Instr) : reservedField (encode i) = 0 := by
  apply BitVec.eq_of_getLsbD_eq
  intro k hk
  simp only [reservedField, encode, BitVec.getLsbD_extractLsb', BitVec.getLsbD_append]
  rw [if_neg (by omega), if_neg (by omega)]
  simp

/-- The row of a command in the opcode map names it back from its own option byte. -/
theorem lookup_opcodeMap_opcode (i : Instr) :
    ∃ command, opcodeMap.lookup (opcode i) = some command ∧ command (optByte i) = i := by
  cases i <;> exact ⟨_, rfl, rfl⟩

/-- Only CTR.FRAME has an option byte that is not 0 (30_encoding.md R84). -/
theorem optByte_eq_zero_or (i : Instr) : optByte i = 0 ∨ opcode i = 0x50 := by
  cases i
  case ctrFrame f => exact .inr rfl
  all_goals exact .inl rfl

/-- Every row of the opcode map gives a command of its opcode, with the option byte where the opcode has one. -/
theorem opcodeMap_row :
    ∀ row ∈ opcodeMap, ∀ f, opcode (row.2 f) = row.1 ∧ (f = 0 ∨ row.1 = 0x50 → optByte (row.2 f) = f) := by
  simp [opcodeMap, opcode, optByte]

theorem mem_of_lookup_eq_some {α β : Type} [BEq α] [LawfulBEq α] {l : List (α × β)} {a : α} {b : β}
    (h : l.lookup a = some b) : (a, b) ∈ l := by
  obtain ⟨l₁, l₂, rfl, _⟩ := List.lookup_eq_some_iff.1 h
  simp

theorem decode_encode (i : Instr) : decode (encode i) = .ok i := by
  obtain ⟨command, hrow, hi⟩ := lookup_opcodeMap_opcode i
  have hopt : ¬ (optByte i ≠ 0 ∧ opcode i ≠ 0x50) := by
    have := optByte_eq_zero_or i
    tauto
  unfold decode
  rw [opcodeField_encode, optField_encode, reservedField_encode, hrow]
  simp only [ne_eq, not_true_eq_false, if_false, if_neg hopt, hi]

theorem encode_of_decode {w : Word} {i : Instr} (h : decode w = .ok i) : encode i = w := by
  unfold decode at h
  split at h
  · cases h
  next command hrow =>
  split at h
  · cases h
  next hres =>
  split at h
  · cases h
  next hopt =>
  cases h
  obtain ⟨hopc, hbyte⟩ := opcodeMap_row _ (mem_of_lookup_eq_some hrow) (optField w)
  have hres : reservedField w = 0 := by simpa using hres
  have hbyte := hbyte (by tauto)
  calc encode (command (optField w))
      = reservedField w ++ optField w ++ opcodeField w := by rw [encode, hopc, hbyte, hres]; rfl
    _ = w := fields_append w

/-- Decoding is the inverse of encoding (30_encoding.md R83). -/
theorem decode_eq_ok_iff {w : Word} {i : Instr} : decode w = .ok i ↔ encode i = w :=
  ⟨encode_of_decode, fun h => h ▸ decode_encode i⟩

theorem opcode_eq_opcodeField {w : Word} {i : Instr} (h : decode w = .ok i) : opcode i = opcodeField w := by
  rw [← encode_of_decode h, opcodeField_encode]

end Sys2Proof
end

section
/-! The register map and the host's accesses to it (10_state.md R39, R43, R44, R48): what stands at an offset, what a
register reads after a write, and what a step does with an access. -/

namespace Sys2Proof.Machine

open Sys2Proof.Spec

/-! ### The register map -/

theorem regAt_freq (v : Byte) : regAt (0x400 + 4 * v.toNat) = some (.freq v) := by
  have hv := v.isLt
  have hi : (0x400 + 4 * v.toNat - 0x400) / 4 = v.toNat := by omega
  rw [regAt, if_neg (by omega), if_pos (by omega), hi, BitVec.ofNat_toNat, BitVec.setWidth_eq]

theorem regAt_len (v : Byte) : regAt (0x800 + 4 * v.toNat) = some (.len v) := by
  have hv := v.isLt
  have hi : (0x800 + 4 * v.toNat - 0x800) / 4 = v.toNat := by omega
  rw [regAt, if_neg (by omega), if_neg (by omega), if_pos (by omega), hi, BitVec.ofNat_toNat, BitVec.setWidth_eq]

theorem regAt_codeLo (v : Byte) : regAt (0xC00 + 8 * v.toNat) = some (.codeLo v) := by
  have hv := v.isLt
  have hi : (0xC00 + 8 * v.toNat - 0xC00) / 8 = v.toNat := by omega
  rw [regAt, if_neg (by omega), if_neg (by omega), if_neg (by omega), if_pos (by omega), if_pos (by omega), hi,
    BitVec.ofNat_toNat, BitVec.setWidth_eq]

theorem regAt_codeHi (v : Byte) : regAt (0xC04 + 8 * v.toNat) = some (.codeHi v) := by
  have hv := v.isLt
  have hi : (0xC04 + 8 * v.toNat - 0xC00) / 8 = v.toNat := by omega
  rw [regAt, if_neg (by omega), if_neg (by omega), if_neg (by omega), if_pos (by omega), if_neg (by omega), hi,
    BitVec.ofNat_toNat, BitVec.setWidth_eq]

@[simp] theorem regAt_regOffset (r : Reg) : regAt (regOffset r) = some r := by
  cases r
  case freq v => exact regAt_freq v
  case len v => exact regAt_len v
  case codeLo v => exact regAt_codeLo v
  case codeHi v => exact regAt_codeHi v
  all_goals rfl

theorem regOffset_mod_four (r : Reg) : regOffset r % 4 = 0 := by
  cases r <;> simp only [regOffset] <;> omega

theorem regOffset_lt (r : Reg) : regOffset r < 0x1400 := by
  cases r
  case freq v | len v | codeLo v | codeHi v =>
    have hv := v.isLt
    simp only [regOffset]
    omega
  all_goals simp [regOffset]

theorem regOffset_namedRegs : ∀ p ∈ namedRegs, regOffset p.2 = p.1 := by decide

/-- An aligned offset names at most the register that stands there. -/
theorem regOffset_of_regAt {off : Nat} {r : Reg} (hal : off % 4 = 0) (h : regAt off = some r) : regOffset r = off := by
  unfold regAt at h
  split at h
  · exact regOffset_namedRegs _ (mem_of_lookup_eq_some h)
  split at h
  · cases h
    simp only [regOffset, BitVec.toNat_ofNat]
    omega
  split at h
  · cases h
    simp only [regOffset, BitVec.toNat_ofNat]
    omega
  split at h
  · split at h <;> cases h <;> simp only [regOffset, BitVec.toNat_ofNat] <;> omega
  · cases h

/-- The offset of a register lies in one of the ranges of the map. -/
theorem regOffset_range (r : Reg) : regOffset r ≤ 0x044 ∨ 0x400 ≤ regOffset r := by
  cases r <;> simp [regOffset] <;> omega

theorem regAt_eq_none {off : Nat} (hal : off % 4 = 0) (hlo : 0x044 < off) (hgap : off < 0x400 ∨ 0x1400 ≤ off) :
    regAt off = none := by
  by_contra hne
  obtain ⟨r, hr⟩ := Option.ne_none_iff_exists'.1 hne
  have hoff := regOffset_of_regAt hal hr
  have hrange := regOffset_range r
  have hlt := regOffset_lt r
  omega

/-- The writable offsets are those of the writable registers (10_state.md R29, R39). -/
theorem writableOffset_regOffset_iff (r : Reg) : WritableOffset (regOffset r) ↔ r.writable = true := by
  cases r
  case freq v | len v | codeLo v | codeHi v =>
    have hv := v.isLt
    simp only [WritableOffset, regOffset, Reg.writable]
    grind
  all_goals simp [WritableOffset, regOffset, Reg.writable]

theorem exists_writable_of_writableOffset {off : Nat} (hal : off % 4 = 0) (h : WritableOffset off) :
    ∃ r, regAt off = some r ∧ r.writable = true := by
  have hr : ∃ r, regAt off = some r := by
    rcases h with rfl | rfl | rfl | rfl | rfl | rfl | rfl | ⟨hlo, hhi⟩
    case inr.inr.inr.inr.inr.inr.inr =>
      refine ⟨.freq (BitVec.ofNat 8 ((off - 0x400) / 4)), ?_⟩
      unfold regAt
      rw [if_neg (by omega), if_pos (by omega)]
    all_goals exact ⟨_, rfl⟩
  obtain ⟨r, hr⟩ := hr
  refine ⟨r, hr, ?_⟩
  rw [← writableOffset_regOffset_iff, regOffset_of_regAt hal hr]
  exact h

theorem writableOffset_lt {off : Nat} (h : WritableOffset off) : off < 0x1400 := by
  unfold WritableOffset at h
  omega

theorem unspecifiedWhileBusy_iff (r : Reg) : UnspecifiedWhileBusy r ↔ r.openWhileBusy = true := by
  cases r <;> simp [UnspecifiedWhileBusy, Reg.openWhileBusy]

/-! ### The value of a register after a write -/

theorem readReg_writeReg_self (s : State) {r : Reg} (w : Word) (hw : r.writable = true) (hc : r ≠ .cmd) :
    readReg (writeReg s r w) r = w := by
  cases r <;> simp [Reg.writable] at hw <;> simp [readReg, writeReg] at hc ⊢

/-- A write to a register leaves every other one as it was, but for CRC_VALUE, the view of CRC_STATE. -/
theorem readReg_writeReg_ne (s : State) {r r' : Reg} (w : Word) (hne : r' ≠ r) (hv : r' ≠ .crcValue) :
    readReg (writeReg s r w) r' = readReg s r' := by
  cases r
  case freq v =>
    cases r'
    case freq v' => exact Table.get_set_ne _ _ fun e => hne (e ▸ rfl)
    all_goals rfl
  all_goals cases r' <;> first | rfl | contradiction

theorem readReg_writeReg_crcValue (s : State) (r : Reg) (w : Word) :
    readReg (writeReg s r w) .crcValue = if r = .crcState then w ^^^ 0xFFFFFFFF else readReg s .crcValue := by
  cases r <;> rfl

@[simp] theorem writeReg_status (s : State) (r : Reg) (w : Word) : (writeReg s r w).status = s.status := by cases r <;> rfl
@[simp] theorem writeReg_buf (s : State) (r : Reg) (w : Word) : (writeReg s r w).buf = s.buf := by cases r <;> rfl
@[simp] theorem writeReg_params (s : State) (r : Reg) (w : Word) : (writeReg s r w).params = s.params := by cases r <;> rfl
@[simp] theorem writeReg_host (s : State) (r : Reg) (w : Word) : (writeReg s r w).host = s.host := by cases r <;> rfl
@[simp] theorem writeReg_len (s : State) (r : Reg) (w : Word) : (writeReg s r w).len = s.len := by cases r <;> rfl

/-! ### Accesses to the window -/

theorem regAccessAligned_iff {off width : Nat} : regAccessAligned off width = true ↔ width = 4 ∧ off % 4 = 0 := by
  simp [regAccessAligned]

theorem regAccessInWindow_iff {off : Nat} : regAccessInWindow off = true ↔ off < 0x1400 := by
  simp [regAccessInWindow]

/-- An aligned word access in the window reaches the block. -/
theorem regAccess_aligned {off : Nat} (k : Result) (hal : off % 4 = 0) (hin : off < 0x1400) : regAccess off 4 k = k := by
  unfold regAccess
  rw [regAccessAligned_iff.2 ⟨rfl, hal⟩, regAccessInWindow_iff.2 hin]
  rfl

theorem regAccess_misformed {off width : Nat} (k : Result) (h : ¬ (width = 4 ∧ off % 4 = 0)) :
    regAccess off width k = .refused .registerAccess := by
  unfold regAccess
  rw [if_pos]
  rw [← regAccessAligned_iff] at h
  simpa using h

theorem busWrite_of_none {s : State} {off : Nat} (w : Word) (h : regAt off = none) : busWrite s off w = .next s := by
  unfold busWrite
  rw [h]

theorem busWrite_of_cmd {s : State} {off : Nat} (w : Word) (h : regAt off = some .cmd) :
    busWrite s off w = issue s w := by
  unfold busWrite
  rw [h]

theorem busWrite_of_register {s : State} {off : Nat} {r : Reg} (w : Word) (h : regAt off = some r) (hc : r ≠ .cmd) :
    busWrite s off w
      = if !r.writable then .next s else if s.status.busy then .next (dropWrite s) else .next (writeReg s r w) := by
  unfold busWrite
  rw [h]
  cases r <;> first | rfl | contradiction

/-- A write to a read-only register is ignored (10_state.md R44). -/
theorem busWrite_readOnly {s : State} {off : Nat} {r : Reg} (w : Word) (h : regAt off = some r)
    (hr : r.writable = false) : busWrite s off w = .next s := by
  rw [busWrite_of_register w h (by rintro rfl; cases hr), hr]
  rfl

/-- While BUSY is 1 a write to a writable register is dropped (10_state.md R48). -/
theorem busWrite_busy {s : State} {off : Nat} {r : Reg} (w : Word) (h : regAt off = some r) (hr : r.writable = true)
    (hb : s.status.busy = true) : busWrite s off w = .next (dropWrite s) := by
  by_cases hc : r = .cmd
  · rw [busWrite_of_cmd w (hc ▸ h), issue, if_pos hb]
  · rw [busWrite_of_register w h hc, hr, hb]
    rfl

theorem busWrite_idle {s : State} {off : Nat} {r : Reg} (w : Word) (h : regAt off = some r) (hr : r.writable = true)
    (hc : r ≠ .cmd) (hb : s.status.busy = false) : busWrite s off w = .next (writeReg s r w) := by
  rw [busWrite_of_register w h hc, hr, hb]
  rfl

/-! ### The step, event by event -/

theorem step_regWrite_aligned (s : State) {off : Nat} (w : Word) (rest : List HostEvent) (hal : off % 4 = 0)
    (hin : off < 0x1400) :
    step { s with host := .regWrite off 4 w :: rest } = busWrite { s with host := rest } off w :=
  regAccess_aligned _ hal hin

theorem step_regRead_aligned (s : State) {off : Nat} (rest : List HostEvent) (hal : off % 4 = 0) (hin : off < 0x1400) :
    step { s with host := .regRead off 4 :: rest } = .next (busRead { s with host := rest } off) :=
  regAccess_aligned _ hal hin

theorem readReg_host (s : State) (rest : List HostEvent) (r : Reg) : readReg { s with host := rest } r = readReg s r := by
  cases r <;> rfl

end Sys2Proof.Machine
end

section
/-! The register window as the host sees it (10_state.md R24 to R44). -/

namespace Sys2Proof.Proofs

open Sys2Proof.Machine Sys2Proof.Spec

/-- Settles O6. -/
theorem registerMapMatchesOffsets : Obligations.RegisterMapMatchesOffsets := by
  refine ⟨⟨⟨rfl, rfl, rfl, rfl⟩, ⟨rfl, rfl, rfl, rfl, rfl⟩, ⟨rfl, rfl, rfl, rfl, rfl⟩, rfl, rfl, rfl, rfl⟩, ?_, ?_, ?_⟩
  · exact fun v => ⟨regAt_freq v, regAt_len v, regAt_codeLo v, regAt_codeHi v⟩
  · exact fun off r => regOffset_of_regAt
  · exact fun off => regAt_eq_none

/-- Settles O7. -/
theorem registerAccessForms : Obligations.RegisterAccessForms := by
  intro s off width v rest
  constructor
  · intro h
    exact ⟨regAccess_misformed _ h, regAccess_misformed _ h⟩
  · rintro rfl hal hlo hhi
    have hnone := regAt_eq_none hal hlo (.inl hhi)
    rw [step_regRead_aligned s rest hal (by omega), step_regWrite_aligned s v rest hal (by omega),
      busWrite_of_none v hnone, busRead, hnone]
    exact ⟨rfl, rfl⟩

/-- Settles O8. -/
theorem readOnlyWritesIgnored : Obligations.ReadOnlyWritesIgnored := by
  intro s off v rest hal hin _ hro
  rw [step_regWrite_aligned s v rest hal hin]
  cases hr : regAt off with
  | none => exact busWrite_of_none v hr
  | some r =>
    refine busWrite_readOnly v hr ?_
    rwa [← regOffset_of_regAt hal hr, writableOffset_regOffset_iff, Bool.not_eq_true] at hro

/-- Settles O9. -/
theorem busyWritesDropped : Obligations.BusyWritesDropped := by
  intro s off v rest hb hal hw
  obtain ⟨r, hr, hwr⟩ := exists_writable_of_writableOffset hal hw
  rw [step_regWrite_aligned s v rest hal (writableOffset_lt hw), busWrite_busy (s := { s with host := rest }) v hr hwr hb]
  rfl

/-- Settles O10. -/
theorem registerWritesReadBack : Obligations.RegisterWritesReadBack := by
  intro s r v rest hb hw hc
  have hwr := (writableOffset_regOffset_iff r).1 hw
  refine ⟨writeReg { s with host := rest } r v, ?_, readReg_writeReg_self _ v hwr hc, ?_, ?_, ?_⟩
  · rw [step_regWrite_aligned s v rest (regOffset_mod_four r) (regOffset_lt r)]
    exact busWrite_idle v (regAt_regOffset r) hwr hc hb
  · intro r' hne hv
    rw [readReg_writeReg_ne _ v hne hv, readReg_host]
  · rw [readReg_writeReg_crcValue, readReg_host]
  · simp

/-- Settles O11. -/
theorem registerReadsReturnValue : Obligations.RegisterReadsReturnValue := by
  intro s r rest
  rw [step_regRead_aligned s rest (regOffset_mod_four r) (regOffset_lt r), unspecifiedWhileBusy_iff, busRead,
    regAt_regOffset]
  constructor
  · intro h
    have hshown : (s.status.busy && r.openWhileBusy) = false := by
      rcases h with h | h <;> simp [h]
    simp [hshown, readReg_host]
  · intro hb ho
    simp [hb, ho]

/-- Settles O12. -/
theorem statusBitsInPlace : Obligations.StatusBitsInPlace := by
  intro s
  rcases hs : s.status with ⟨busy, done, err, warn, wbusy⟩
  have hword : readReg s .status
      = Status.toWord ⟨busy, !busy && done, !busy && err, warn, wbusy⟩ := by
    cases busy <;> simp [readReg, hs, Status.shown]
  rw [hword]
  simp only [Status.toWord, BitVec.getLsbD_append, BitVec.getLsbD_ofBool]
  refine ⟨by simp, by simp, by simp, by simp, by simp, fun k hk => ?_⟩
  repeat rw [if_neg (by omega)]
  simp

/-- Settles O13. -/
theorem crcValueIsComplement : Obligations.CrcValueIsComplement := by
  refine ⟨rfl, fun _ => rfl, fun s v rest => ?_, by decide⟩
  rw [step_regWrite_aligned s v rest (by decide) (by decide)]
  exact busWrite_readOnly v (regAt_regOffset .crcValue) rfl

end Sys2Proof.Proofs
end

section
/-! The code tables that HUF.BUILD and HUF.RTABLE install are complete (43_huffman.md R155, R157, R158): the Kraft sum of
the construction of R154 is 1, and the reader of R157 accepts no other table of two or more symbols. -/

namespace Sys2Proof.Machine

/-! ### Tables given by a list of symbols with their lengths -/

theorem lookup_of_mem_of_nodup {α β : Type} [BEq α] [LawfulBEq α] {l : List (α × β)} {a : α} {b : β}
    (hk : (l.map Prod.fst).Nodup) (h : (a, b) ∈ l) : l.lookup a = some b := by
  cases hl : l.lookup a with
  | none => simpa using List.lookup_eq_none_iff.1 hl (a, b) h
  | some c => simp [(Prod.mk.inj (List.inj_on_of_nodup_map hk (mem_of_lookup_eq_some hl) h rfl)).2]

theorem lookup_eq_none_of_notMem {α β : Type} [BEq α] [LawfulBEq α] {l : List (α × β)} {a : α}
    (h : a ∉ l.map Prod.fst) : l.lookup a = none :=
  List.lookup_eq_none_iff.2 fun p hp => by
    simp only [bne_iff_ne]
    rintro rfl
    exact h (List.mem_map_of_mem hp)

/-- The list gives every coded byte value once, with its length. -/
structure ListsLengths (ps : List (Byte × Nat)) (lens : Table Byte) : Prop where
  nodup : (ps.map Prod.fst).Nodup
  length_eq : ∀ p ∈ ps, (lens.get p.1).toNat = p.2
  pos : ∀ p ∈ ps, 0 < p.2
  others : ∀ v, v ∉ ps.map Prod.fst → lens.get v = 0

theorem ListsLengths.coded_perm {ps : List (Byte × Nat)} {lens : Table Byte} (h : ListsLengths ps lens) :
    (coded lens).Perm (ps.map Prod.fst) := by
  have hcoded : (coded lens).Nodup := Table.support_nodup lens
  rw [List.perm_ext_iff_of_nodup hcoded h.nodup]
  intro v
  rw [mem_coded]
  constructor
  · intro hv
    by_contra hn
    exact hv (h.others v hn)
  · intro hv h0
    obtain ⟨p, hp, rfl⟩ := List.mem_map.1 hv
    have hpos := h.pos p hp
    rw [← h.length_eq p hp, h0] at hpos
    simp at hpos

theorem ListsLengths.symbolCount_eq {ps : List (Byte × Nat)} {lens : Table Byte} (h : ListsLengths ps lens) :
    symbolCount lens = ps.length := by
  rw [symbolCount, h.coded_perm.length_eq, List.length_map]

/-- The Kraft sum over the coded byte values is the one over the list. -/
theorem ListsLengths.kraft_eq {ps : List (Byte × Nat)} {lens : Table Byte} (h : ListsLengths ps lens) :
    ((coded lens).map fun v => 2 ^ (64 - (lens.get v).toNat)).sum = (ps.map fun p => 2 ^ (64 - p.2)).sum := by
  rw [(h.coded_perm.map _).sum_eq, List.map_map]
  congr 1
  exact List.map_congr_left fun p hp => by simp [h.length_eq p hp]

/-- A table is complete when its list has a Kraft sum of 1 over two or more symbols, or gives a lone symbol length 1. -/
theorem ListsLengths.completeTable {ps : List (Byte × Nat)} {lens : Table Byte} (h : ListsLengths ps lens)
    (hmax : ∀ p ∈ ps, p.2 ≤ 64) (hlone : ∀ p, ps = [p] → p.2 = 1)
    (hkraft : 2 ≤ ps.length → (ps.map fun p => 2 ^ (64 - p.2)).sum = 2 ^ 64) : CompleteTable lens := by
  match ps, h, hmax, hlone, hkraft with
  | [], h, _, _, _ => exact .inl (List.perm_nil.1 h.coded_perm)
  | [p], h, _, hlone, _ =>
    refine .inr (.inl ⟨p.1, List.perm_singleton.1 h.coded_perm, BitVec.eq_of_toNat_eq ?_⟩)
    rw [h.length_eq p (by simp), hlone p rfl]
    rfl
  | p :: q :: ps, h, hmax, _, hkraft =>
    refine .inr (.inr ⟨?_, fun v => ?_, ?_⟩)
    · rw [h.coded_perm.length_eq]
      simp
    · by_cases hv : v ∈ (p :: q :: ps).map Prod.fst
      · obtain ⟨r, hr, rfl⟩ := List.mem_map.1 hv
        rw [h.length_eq r hr]
        exact hmax r hr
      · rw [h.others v hv]
        simp
    · rw [h.kraft_eq]
      exact hkraft (by simp)

theorem completeTable_fill_zero : CompleteTable (Table.fill 0) := .inl support_fill_zero

/-! ### The serialized table (R157) -/

/-- The pairs the reader accepts: as many as asked for, byte values rising from `least` on, lengths 1 to 64. -/
theorem readPairs_ok {k least : Nat} {B : List Byte} {ps : List (Byte × Byte)} (h : readPairs k least B = .ok ps) :
    ps.length = k ∧ ps.Pairwise (fun p q => p.1.toNat < q.1.toNat)
      ∧ ∀ p ∈ ps, least ≤ p.1.toNat ∧ p.2 ≠ 0 ∧ p.2.toNat ≤ 64 := by
  induction k generalizing least B ps with
  | zero =>
    cases h
    simp
  | succ k ih =>
    match B, h with
    | [], h => cases h
    | [_], h => cases h
    | v :: l :: B, h =>
      simp only [readPairs] at h
      split at h
      · cases h
      next hleast =>
      split at h
      · cases h
      next hzero =>
      split at h
      · cases h
      next hlong =>
      split at h
      · cases h
      next qs hqs =>
      cases h
      obtain ⟨hlen, hpair, hall⟩ := ih hqs
      refine ⟨by simp [hlen], List.pairwise_cons.2 ⟨fun q hq => (hall q hq).1, hpair⟩, ?_⟩
      simp only [List.mem_cons, forall_eq_or_imp]
      refine ⟨⟨by omega, hzero, by simpa [maxCodeLen] using hlong⟩, fun q hq => ?_⟩
      obtain ⟨hq1, hq2, hq3⟩ := hall q hq
      exact ⟨by omega, hq2, hq3⟩

theorem kraftError_none_lone {l : Nat} (h : kraftError [l] = none) : l = 1 := by
  simpa [kraftError] using h

theorem kraftError_none {ls : List Nat} (h : kraftError ls = none) (h2 : 2 ≤ ls.length) :
    kraftSum ls = 2 ^ maxCodeLen := by
  match ls, h, h2 with
  | a :: b :: ls, h, _ =>
    simp only [kraftError] at h
    split at h
    · cases h
    split at h
    · cases h
    · omega

/-- What `ReadCLT` accepts is a complete table of the number of symbols it reports (R157). -/
theorem readClt_ok {B : List Byte} {lens : Table Byte} {K : Nat} (h : readClt B = .ok (lens, K)) :
    CompleteTable lens ∧ symbolCount lens = K := by
  match B, h with
  | b :: rest, h =>
    simp only [readClt] at h
    split at h
    · cases h
    split at h
    · cases h
    next ps hps =>
    split at h
    · cases h
    next hkraft =>
    cases h
    obtain ⟨hlen, hpair, hall⟩ := readPairs_ok hps
    have hnodup : (ps.map Prod.fst).Nodup :=
      List.pairwise_map.2 (hpair.imp fun hlt e => by simp [e] at hlt)
    have hlists : ListsLengths (ps.map fun p => (p.1, p.2.toNat)) (Table.ofFn fun v => (ps.lookup v).getD 0) := by
      constructor
      · simpa [Function.comp_def] using hnodup
      · intro p hp
        obtain ⟨q, hq, rfl⟩ := List.mem_map.1 hp
        rw [Table.get_ofFn, lookup_of_mem_of_nodup hnodup hq]
        rfl
      · intro p hp
        obtain ⟨q, hq, rfl⟩ := List.mem_map.1 hp
        obtain ⟨_, hq0, _⟩ := hall q hq
        exact Nat.pos_of_ne_zero fun e => hq0 (BitVec.eq_of_toNat_eq e)
      · intro v hv
        rw [Table.get_ofFn, lookup_eq_none_of_notMem (by simpa [Function.comp_def] using hv)]
        rfl
    refine ⟨hlists.completeTable ?_ ?_ ?_, by rw [hlists.symbolCount_eq, List.length_map, hlen]⟩
    · intro p hp
      obtain ⟨q, hq, rfl⟩ := List.mem_map.1 hp
      exact (hall q hq).2.2
    · intro p hp
      obtain ⟨q, rfl, rfl⟩ := List.map_eq_singleton_iff.1 hp
      exact kraftError_none_lone hkraft
    · intro h2
      have hsum := kraftError_none hkraft (by simpa using h2)
      simpa [kraftSum, maxCodeLen, Function.comp_def] using hsum

/-! ### The construction (R154) -/

/-- The Kraft sum of the byte values below a node, counted from the node. -/
def HufNode.kraft (x : HufNode) : ℚ := (x.members.map fun m => (1 / 2 : ℚ) ^ m.2).sum

theorem kraft_hufLeaf (v : Byte) (f : Nat) : (hufLeaf v f).kraft = 1 := by simp [HufNode.kraft, hufLeaf]

/-- Merging puts every member one deeper, and so halves both sums. -/
theorem kraft_hufMerge (x y : HufNode) : (hufMerge x y).kraft = (x.kraft + y.kraft) / 2 := by
  simp only [HufNode.kraft, hufMerge, List.map_map, Function.comp_def, List.map_append, List.sum_append, pow_succ,
    List.sum_map_mul_right]
  ring

/-- What holds of every leaf and is kept by merging holds of every node the construction leaves. -/
theorem forall_mem_hufMergeAll {P : HufNode → Prop} (hmerge : ∀ x y, P x → P y → P (hufMerge x y)) :
    ∀ (n : Nat) (ns : List HufNode), (∀ x ∈ ns, P x) → ∀ x ∈ hufMergeAll n ns, P x := by
  intro n ns
  induction n, ns using hufMergeAll.induct with
  | case1 n x y ns ih =>
    intro hall
    rw [hufMergeAll]
    refine ih fun z hz => ?_
    rcases (List.mem_orderedInsert _).1 hz with rfl | hz
    · exact hmerge x y (hall x (by simp)) (hall y (by simp))
    · exact hall z (by simp [hz])
  | case2 n ns hstop =>
    intro hall
    rwa [hufMergeAll]
    exact hstop

/-- The construction ends with a single node. -/
theorem length_hufMergeAll (n : Nat) (ns : List HufNode) (hne : ns ≠ []) (hn : ns.length ≤ n + 1) :
    (hufMergeAll n ns).length = 1 := by
  induction n, ns using hufMergeAll.induct with
  | case1 n x y ns ih =>
    rw [hufMergeAll]
    refine ih ?_ ?_
    · exact List.ne_nil_of_length_pos (by simp [List.orderedInsert_length])
    · simp only [List.orderedInsert_length, List.length_cons] at hn ⊢
      omega
  | case2 n ns hstop =>
    rw [hufMergeAll]
    · match n, ns, hne, hn, hstop with
      | _, [x], _, _, _ => rfl
      | n + 1, x :: y :: ns, _, _, hstop => exact (hstop n x y ns rfl rfl).elim
      | 0, x :: y :: ns, _, hn, _ => simp at hn
    · exact hstop

/-- The byte values below a list of nodes. -/
def nodeSymbols (ns : List HufNode) : List Byte := (ns.flatMap HufNode.members).map Prod.fst

theorem nodeSymbols_perm {ns ms : List HufNode} (h : ns.Perm ms) : (nodeSymbols ns).Perm (nodeSymbols ms) :=
  (h.flatMap_right _).map _

theorem nodeSymbols_hufMerge (x y : HufNode) (ns : List HufNode) :
    nodeSymbols (hufMerge x y :: ns) = nodeSymbols (x :: y :: ns) := by
  simp [nodeSymbols, hufMerge, Function.comp_def]

/-- The construction keeps the byte values. -/
theorem nodeSymbols_hufMergeAll (n : Nat) (ns : List HufNode) :
    (nodeSymbols (hufMergeAll n ns)).Perm (nodeSymbols ns) := by
  induction n, ns using hufMergeAll.induct with
  | case1 n x y ns ih =>
    rw [hufMergeAll, ← nodeSymbols_hufMerge]
    exact ih.trans (nodeSymbols_perm (List.perm_orderedInsert _ _ _))
  | case2 n ns hstop =>
    rw [hufMergeAll]
    exact hstop

/-- The leaves of the construction, in the order of the byte values (R154). -/
def hufLeaves (F : Table Word) : List HufNode := (present F).map fun v => hufLeaf v (F.get v).toNat

/-- The tree of two or more symbols: its Kraft sum is 1 and its leaves are the byte values that occur. -/
theorem hufDepths_tree (F : Table Word) (hne : present F ≠ []) :
    ((hufDepths F).map fun m => (1 / 2 : ℚ) ^ m.2).sum = 1 ∧ ((hufDepths F).map Prod.fst).Perm (present F) := by
  have hsorted : ((hufLeaves F).insertionSort HufNode.le).Perm (hufLeaves F) := List.perm_insertionSort _ _
  have hsymbols : nodeSymbols (hufLeaves F) = present F := by
    simp [nodeSymbols, hufLeaves, hufLeaf, List.flatMap_map, ← List.map_eq_flatMap, Function.comp_def]
  have hone : (hufMergeAll (hufLeaves F).length ((hufLeaves F).insertionSort HufNode.le)).length = 1 := by
    refine length_hufMergeAll _ _ (fun e => hne ?_) (by simp)
    have hlen := hsorted.length_eq
    rw [e] at hlen
    simpa [hufLeaves] using hlen.symm
  obtain ⟨x, hx⟩ := List.length_eq_one_iff.1 hone
  have hmembers : hufDepths F = x.members := by
    show (hufMergeAll (hufLeaves F).length ((hufLeaves F).insertionSort HufNode.le)).flatMap HufNode.members = _
    rw [hx]
    simp
  constructor
  · rw [hmembers]
    refine forall_mem_hufMergeAll (P := fun x => x.kraft = 1) (fun x y hx hy => ?_) _ _ (fun y hy => ?_) x
      (hx ▸ List.mem_singleton_self x)
    · rw [kraft_hufMerge, hx, hy]
      norm_num
    · obtain ⟨v, _, rfl⟩ := List.mem_map.1 (hsorted.mem_iff.1 hy)
      exact kraft_hufLeaf _ _
  · have := (nodeSymbols_hufMergeAll (hufLeaves F).length _).trans (nodeSymbols_perm hsorted)
    rw [hx, hsymbols] at this
    simpa [nodeSymbols, hmembers] using this

/-- Over two or more leaves, a Kraft sum of 1 leaves none at depth 0. -/
theorem depth_pos_of_kraft {ds : List (Byte × Nat)} (hsum : (ds.map fun m => (1 / 2 : ℚ) ^ m.2).sum = 1)
    (h2 : 2 ≤ ds.length) : ∀ m ∈ ds, 0 < m.2 := by
  intro m hm
  obtain ⟨l, r, rfl⟩ := List.append_of_mem hm
  have hrest : 0 < ((l ++ r).map fun m => (1 / 2 : ℚ) ^ m.2).sum := by
    refine List.sum_pos _ (fun x hx => ?_) ?_
    · obtain ⟨q, _, rfl⟩ := List.mem_map.1 hx
      positivity
    · intro e
      obtain ⟨rfl, rfl⟩ := List.append_eq_nil_iff.1 (List.map_eq_nil_iff.1 e)
      simp at h2
  rw [(List.perm_middle.map _).sum_eq, List.map_cons, List.sum_cons] at hsum
  by_contra h0
  rw [Nat.eq_zero_of_not_pos h0, pow_zero] at hsum
  linarith

/-- A Kraft sum of 1, scaled by `2 ^ 64`, where no length exceeds 64. -/
theorem scaled_kraft {ds : List (Byte × Nat)} (hsum : (ds.map fun m => (1 / 2 : ℚ) ^ m.2).sum = 1)
    (hmax : ∀ m ∈ ds, m.2 ≤ 64) : (ds.map fun m => 2 ^ (64 - m.2)).sum = 2 ^ 64 := by
  have hcast : (((ds.map fun m => 2 ^ (64 - m.2)).sum : ℕ) : ℚ) = 2 ^ 64 := by
    calc (((ds.map fun m => 2 ^ (64 - m.2)).sum : ℕ) : ℚ)
        = (ds.map fun m => 2 ^ 64 * (1 / 2 : ℚ) ^ m.2).sum := by
          rw [Nat.cast_list_sum, List.map_map]
          congr 1
          refine List.map_congr_left fun m hm => ?_
          simp only [Function.comp_apply, Nat.cast_pow, Nat.cast_ofNat]
          rw [pow_sub₀ _ (by norm_num) (hmax m hm), one_div, inv_pow]
      _ = 2 ^ 64 := by rw [List.sum_map_mul_left, hsum, mul_one]
  exact_mod_cast hcast

theorem huffLengths_of_tree {F : Table Word} (h2 : 2 ≤ (present F).length) :
    huffLengths F = Table.ofFn fun v => ((hufDepths F).lookup v).getD 0 := by
  match hp : present F, h2 with
  | u :: v :: vs, _ => simp [huffLengths, hp]

/-- The tree lists the lengths of its table. -/
theorem listsLengths_hufDepths {F : Table Word} (h2 : 2 ≤ (present F).length) {lens : Table Byte}
    (hlens : ∀ v, (lens.get v).toNat = (huffLengths F).get v) : ListsLengths (hufDepths F) lens := by
  obtain ⟨hsum, hperm⟩ := hufDepths_tree F (List.ne_nil_of_length_pos (by omega))
  have hnodup : ((hufDepths F).map Prod.fst).Nodup := hperm.nodup_iff.2 (Table.support_nodup F)
  have hlength : 2 ≤ (hufDepths F).length := by rwa [← List.length_map, hperm.length_eq]
  simp only [huffLengths_of_tree h2, Table.get_ofFn] at hlens
  refine ⟨hnodup, fun p hp => ?_, depth_pos_of_kraft hsum hlength, fun v hv => BitVec.eq_of_toNat_eq ?_⟩
  · rw [hlens, lookup_of_mem_of_nodup hnodup hp]
    rfl
  · rw [hlens, lookup_eq_none_of_notMem hv]
    rfl

/-- The LEN table that HUF.BUILD installs is complete where no length exceeds 64 (R155, R158). -/
theorem completeTable_of_huffLengths (F : Table Word) (hmax : ∀ v, (huffLengths F).get v ≤ 64) {lens : Table Byte}
    (hlens : ∀ v, (lens.get v).toNat = (huffLengths F).get v) : CompleteTable lens := by
  match hp : present F with
  | [] =>
    have hzero : lens = Table.fill 0 :=
      Table.ext_get fun v => BitVec.eq_of_toNat_eq (by simp [hlens, huffLengths, hp])
    exact hzero ▸ completeTable_fill_zero
  | [u] =>
    have hlone : ∀ v, (lens.get v).toNat = if v = u then 1 else 0 := by simp [hlens, huffLengths, hp]
    have hlists : ListsLengths [(u, 1)] lens :=
      ⟨by simp, by simp [hlone], by simp, fun v hv => BitVec.eq_of_toNat_eq (by simpa [hlone] using hv)⟩
    exact hlists.completeTable (by simp) (by simp) (by simp)
  | u :: v :: vs =>
    have h2 : 2 ≤ (present F).length := by simp [hp]
    have hlists := listsLengths_hufDepths h2 hlens
    obtain ⟨hsum, hperm⟩ := hufDepths_tree F (by simp [hp])
    have hdepth : ∀ p ∈ hufDepths F, p.2 ≤ 64 := fun p hmem => by
      rw [← hlists.length_eq p hmem, hlens]
      exact hmax p.1
    refine hlists.completeTable hdepth (fun p hone => ?_) fun _ => scaled_kraft hsum hdepth
    have hlength := hperm.length_eq
    simp [hone, hp] at hlength

end Sys2Proof.Machine
end

section
/-! What a command can end in, said once for all sixteen: `exec` always answers a next state, and that state is a success
over one of few updates of the state, an error completion, or the state after SRESET. -/

namespace Sys2Proof.Machine

/-- The state that the rule of a command reports success from (the statements before `result` in each rule). The length
of what HUF.WTABLE writes follows LEN, while its capacity check follows NSYM, so the fit of a write is given where the two
agree. -/
inductive Works : Instr → State → State → Prop
  | nop (s : State) : Works .nop s s
  | errClear (s : State) : Works .errClear s (clearError s)
  | crcInit (s : State) : Works .crcInit s { s with crcState := crcMask }
  | crcUpdate (c : Word) (s : State) : Works .crcUpdate s { s with crcState := c }
  | counts (F : Table Word) (s : State) : Works .hufCount s { s with freq := F }
  | loads {i : Instr} {lens : Table Byte} (s : State) (hi : i = .hufBuild ∨ i = .hufRtable)
      (hlens : CompleteTable lens) : Works i s (loadTable lens s)
  | stores {i : Instr} {out : List Byte} {s : State} (hi : usesDst i = true)
      (hdst : inBounds s.params s.dstAddr s.dstCap = true)
      (hfit : s.nsym = BitVec.ofNat 32 (symbolCount s.len) → out.length ≤ s.dstCap.toNat) : Works i s (dstWrite s out)
  | locates (f : Byte) (o : Nat) (pi : Word) (warn : Bool) (s : State) :
      Works .ctrUnframe s { locate f o pi s with status := { s.status with warn := warn } }

/-- The state that the rule of a command raises an error from (60_exceptions.md R211). -/
inductive Fails : Instr → State → State → Prop
  | unchanged (i : Instr) (s : State) : Fails i s s
  | empties (s : State) : Fails .hufRtable s (loadTable (Table.fill 0) s)
  | scrambles {s : State} (hdst : inBounds s.params s.dstAddr s.dstCap = true) :
      Fails .bitPack s (memScramble s s.dstAddr.toNat s.dstCap.toNat)

/-- What a command ends in. -/
inductive Ends : Instr → State → State → Prop
  | succeeds {i : Instr} {s u : State} (h : Works i s u) (l a : Word) : Ends i s (result l a u)
  | fails {i : Instr} {s u : State} (h : Fails i s u) (e : CmdError) : Ends i s (raiseError (opcode i) e u)
  | resets (s : State) :
      Ends .sreset s { resetRegisters s with cmd := encode .sreset, status := ⟨false, true, false, false, false⟩ }

/-! ### What the checks that passed give -/

theorem inBounds_dst_of_none {s : State} {cs : List Check} (h : firstError cs = none) (hm : checkDst s ∈ cs) :
    inBounds s.params s.dstAddr s.dstCap = true := by
  simpa [checkDst] using firstError_eq_none.1 h _ hm

theorem need_le_of_none {s : State} {need : Nat} {cs : List Check} (h : firstError cs = none)
    (hm : checkCap s need ∈ cs) : need ≤ s.dstCap.toNat := by
  simpa [checkCap] using firstError_eq_none.1 h _ hm

/-- Packing that succeeds fits in the capacity (44_bitpack.md R170). -/
theorem bytesFor_packBits_le {s : State} {cap : Nat} {S : List Byte} {bits out : List Bool}
    (h : packBits s cap S bits = .ok out) (hcap : bytesFor bits.length ≤ cap) : bytesFor out.length ≤ cap := by
  induction S generalizing bits with
  | nil =>
    cases h
    exact hcap
  | cons v S ih =>
    simp only [packBits] at h
    split at h
    · cases h
    split at h
    · cases h
    next hfit => exact ih h (not_lt.1 hfit)

@[simp] theorem length_tablePairs (lens : Table Byte) : (tablePairs lens).length = 2 * symbolCount lens := by
  simp [tablePairs, symbolCount, mul_comm]

theorem symbolCount_le (lens : Table Byte) : symbolCount lens ≤ 256 := Table.length_support_le lens

theorem toNat_ofNat_symbolCount (lens : Table Byte) : (BitVec.ofNat 32 (symbolCount lens)).toNat = symbolCount lens := by
  rw [BitVec.toNat_ofNat]
  exact Nat.mod_eq_of_lt (lt_of_le_of_lt (symbolCount_le lens) (by norm_num))

/-! ### Each command -/

theorem execCrcUpdate_ends (s : State) : ∃ t, execCrcUpdate s = .next t ∧ Ends .crcUpdate s t := by
  unfold execCrcUpdate
  split
  next e _ => exact ⟨_, rfl, .fails (.unchanged _ s) e⟩
  next => exact ⟨_, rfl, .succeeds (.crcUpdate _ s) _ _⟩

theorem execBwtFwd_ends (s : State) : ∃ t, execBwtFwd s = .next t ∧ Ends .bwtFwd s t := by
  unfold execBwtFwd
  split
  next e _ => exact ⟨_, rfl, .fails (.unchanged _ s) e⟩
  next h =>
    have hcap := need_le_of_none (s := s) h (need := s.srcLen.toNat) (by simp)
    exact ⟨_, rfl, .succeeds (.stores rfl (inBounds_dst_of_none h (by simp [checkRanges])) fun _ => by simpa) _ _⟩

theorem execBwtInv_ends (s : State) : ∃ t, execBwtInv s = .next t ∧ Ends .bwtInv s t := by
  unfold execBwtInv
  split
  next e _ => exact ⟨_, rfl, .fails (.unchanged _ s) e⟩
  next h =>
    have hcap := need_le_of_none (s := s) h (need := s.srcLen.toNat) (by simp)
    dsimp only
    split
    next e _ => exact ⟨_, rfl, .fails (.unchanged _ s) e⟩
    next =>
      exact ⟨_, rfl, .succeeds (.stores rfl (inBounds_dst_of_none h (by simp [checkRanges])) fun _ => by simpa) _ _⟩

theorem execHufCount_ends (s : State) : ∃ t, execHufCount s = .next t ∧ Ends .hufCount s t := by
  unfold execHufCount
  split
  next e _ => exact ⟨_, rfl, .fails (.unchanged _ s) e⟩
  next => exact ⟨_, rfl, .succeeds (.counts _ s) _ _⟩

/-- The check of HUF.BUILD bounds every length (43_huffman.md R151). -/
theorem huffLengths_le_of_none {F : Table Word} {e : CmdError}
    (h : firstError [((huffLengths F).entries.any fun l => decide (maxCodeLen < l), e)] = none) (v : Byte) :
    (huffLengths F).get v ≤ 64 := by
  have hany := firstError_eq_none.1 h _ (List.mem_singleton_self _)
  simp only [List.any_eq_false, decide_eq_true_eq, not_lt] at hany
  exact hany _ (List.getElem_mem _)

theorem execHufBuild_ends (s : State) : ∃ t, execHufBuild s = .next t ∧ Ends .hufBuild s t := by
  unfold execHufBuild
  dsimp only
  split
  next e _ => exact ⟨_, rfl, .fails (.unchanged _ s) e⟩
  next h =>
    have hmax := huffLengths_le_of_none h
    refine ⟨_, rfl, .succeeds (.loads s (.inl rfl) (completeTable_of_huffLengths s.freq hmax fun v => ?_)) _ _⟩
    rw [Table.get_ofFn, BitVec.toNat_ofNat]
    exact Nat.mod_eq_of_lt (lt_of_le_of_lt (hmax v) (by norm_num))

theorem execHufWtable_ends (s : State) : ∃ t, execHufWtable s = .next t ∧ Ends .hufWtable s t := by
  unfold execHufWtable
  dsimp only
  split
  next e _ => exact ⟨_, rfl, .fails (.unchanged _ s) e⟩
  next h =>
    have hdst := inBounds_dst_of_none (s := s) h (by simp)
    split
    next => exact ⟨_, rfl, .succeeds (.stores (out := []) rfl hdst fun _ => Nat.zero_le _) _ _⟩
    next hK =>
      refine ⟨_, rfl, .succeeds (.stores rfl hdst fun hagree => ?_) _ _⟩
      have hcap := firstError_eq_none.1 h _ (List.mem_cons_of_mem _ (List.mem_singleton_self _))
      simp only [checkCap, hK, ne_eq, not_false_eq_true, decide_true, Bool.true_and, decide_eq_false_iff_not, not_lt]
        at hcap
      have hcount := congrArg BitVec.toNat hagree
      rw [toNat_ofNat_symbolCount] at hcount
      simp only [List.length_cons, length_tablePairs]
      omega

theorem execHufRtable_ends (s : State) : ∃ t, execHufRtable s = .next t ∧ Ends .hufRtable s t := by
  unfold execHufRtable
  split
  next e _ => exact ⟨_, rfl, .fails (.unchanged _ s) e⟩
  next =>
    split
    next d _ => exact ⟨_, rfl, .fails (.empties s) _⟩
    next lens K hread =>
      obtain ⟨hcomplete, hcount⟩ := readClt_ok hread
      refine ⟨_, rfl, ?_⟩
      rw [← hcount]
      exact .succeeds (.loads s (.inr rfl) hcomplete) _ _

theorem execBitPack_ends (s : State) : ∃ t, execBitPack s = .next t ∧ Ends .bitPack s t := by
  unfold execBitPack
  split
  next e _ => exact ⟨_, rfl, .fails (.unchanged _ s) e⟩
  next h =>
    have hdst := inBounds_dst_of_none (s := s) h (by simp [checkRanges])
    split
    next e _ => exact ⟨_, rfl, .fails (.scrambles hdst) e⟩
    next bits hbits =>
      have hfit := bytesFor_packBits_le hbits (Nat.zero_le _)
      exact ⟨_, rfl, .succeeds (.stores rfl hdst fun _ => by simpa) _ _⟩

theorem execBitUnpack_ends (s : State) : ∃ t, execBitUnpack s = .next t ∧ Ends .bitUnpack s t := by
  unfold execBitUnpack
  dsimp only
  split
  next e _ => exact ⟨_, rfl, .fails (.unchanged _ s) e⟩
  next h =>
    have hcap := need_le_of_none (s := s) h (need := s.aux.toNat) (by simp)
    split
    next d _ => exact ⟨_, rfl, .fails (.unchanged _ s) _⟩
    next out left hout =>
      refine ⟨_, rfl, .succeeds (.stores rfl (inBounds_dst_of_none h (by simp [checkRanges])) fun _ => ?_) _ _⟩
      rwa [length_decodeMany hout]

theorem execCtrFrame_ends (f : Byte) (s : State) : ∃ t, execCtrFrame f s = .next t ∧ Ends (.ctrFrame f) s t := by
  unfold execCtrFrame
  split
  next e _ => exact ⟨_, rfl, .fails (.unchanged _ s) e⟩
  next h =>
    have hcap := need_le_of_none (s := s) h (need := headerLen + s.srcLen.toNat) (by simp)
    exact ⟨_, rfl, .succeeds (.stores rfl (inBounds_dst_of_none h (by simp [checkRanges])) fun _ => by simpa) _ _⟩

theorem execCtrUnframe_ends (s : State) : ∃ t, execCtrUnframe s = .next t ∧ Ends .ctrUnframe s t := by
  unfold execCtrUnframe
  split
  next e _ => exact ⟨_, rfl, .fails (.unchanged _ s) e⟩
  next =>
    dsimp only
    split
    next e _ => exact ⟨_, rfl, .fails (.unchanged _ s) e⟩
    next =>
      split
      next =>
        split
        next => exact ⟨_, rfl, .succeeds (.locates _ _ _ true s) _ _⟩
        next => exact ⟨_, rfl, .succeeds (.locates _ _ _ s.status.warn s) _ _⟩
      all_goals exact ⟨_, rfl, .succeeds (.locates _ _ _ s.status.warn s) _ _⟩

theorem execCtrRepl_ends (s : State) : ∃ t, execCtrRepl s = .next t ∧ Ends .ctrRepl s t := by
  unfold execCtrRepl
  split
  next e _ => exact ⟨_, rfl, .fails (.unchanged _ s) e⟩
  next h =>
    have hcap := need_le_of_none (s := s) h (need := s.aux.toNat) (by simp)
    exact ⟨_, rfl, .succeeds (.stores rfl (inBounds_dst_of_none h (by simp [checkRanges])) fun _ => by simpa) _ _⟩

/-- Every command ends, and in one of the ways of `Ends`. -/
theorem exec_ends (i : Instr) (s : State) : ∃ t, exec i s = .next t ∧ Ends i s t := by
  cases i with
  | nop => exact ⟨_, rfl, .succeeds (.nop s) _ _⟩
  | errClear => exact ⟨_, rfl, .succeeds (.errClear s) _ _⟩
  | sreset => exact ⟨_, rfl, .resets s⟩
  | crcInit => exact ⟨_, rfl, .succeeds (.crcInit s) _ _⟩
  | crcUpdate => exact execCrcUpdate_ends s
  | bwtFwd => exact execBwtFwd_ends s
  | bwtInv => exact execBwtInv_ends s
  | hufCount => exact execHufCount_ends s
  | hufBuild => exact execHufBuild_ends s
  | hufWtable => exact execHufWtable_ends s
  | hufRtable => exact execHufRtable_ends s
  | bitPack => exact execBitPack_ends s
  | bitUnpack => exact execBitUnpack_ends s
  | ctrFrame f => exact execCtrFrame_ends f s
  | ctrUnframe => exact execCtrUnframe_ends s
  | ctrRepl => exact execCtrRepl_ends s

theorem ends_of_exec {i : Instr} {s t : State} (h : exec i s = .next t) : Ends i s t := by
  obtain ⟨u, hu, hends⟩ := exec_ends i s
  cases hu.symm.trans h
  exact hends

/-! ### What the ends of a command keep -/

theorem Works.len {i : Instr} {s u : State} (h : Works i s u) : u.len = s.len ∨ CompleteTable u.len := by
  cases h with
  | loads _ _ hlens => exact .inr hlens
  | _ => exact .inl rfl

theorem Fails.len {i : Instr} {s u : State} (h : Fails i s u) : u.len = s.len ∨ CompleteTable u.len := by
  cases h with
  | empties => exact .inr completeTable_fill_zero
  | _ => exact .inl rfl

/-- A command keeps LEN or leaves a complete table in it. -/
theorem Ends.len {i : Instr} {s t : State} (h : Ends i s t) : t.len = s.len ∨ CompleteTable t.len := by
  cases h with
  | succeeds h => exact h.len
  | fails h => exact h.len
  | resets => exact .inr completeTable_fill_zero

/-- Only ERR.CLEAR and SRESET change WBUSY (40_control.md R126, R127). -/
theorem Ends.wbusy {i : Instr} {s t : State} (h : Ends i s t) (hclear : i ≠ .errClear) (hreset : i ≠ .sreset) :
    t.status.wbusy = s.status.wbusy := by
  cases h with
  | succeeds h => cases h <;> first | rfl | contradiction
  | fails h => cases h <;> rfl
  | resets => contradiction

end Sys2Proof.Machine
end

section
/-! What a step can do, said once (20_memory.md R75): the service of one event ends in one of few updates of the state, or
stops on a host access; a running command completes. -/

namespace Sys2Proof.Machine

open Sys2Proof.Spec

/-- What the service of an event to the next state does. -/
inductive Served (s : State) : HostEvent → State → Prop
  | keeps (e : HostEvent) : Served s e s
  | drops (e : HostEvent) (hb : s.status.busy = true) : Served s e (dropWrite s)
  | stores {off : Nat} {r : Reg} (w : Word) (hb : s.status.busy = false) (hr : r.writable = true) (hc : r ≠ .cmd) :
      Served s (.regWrite off 4 w) (writeReg s r w)
  | runs {w : Word} {t : State} (hb : s.status.busy = false) (hd : discarded s w = false)
      (ht : runAccepted (accept w s) = .next t) : Served s (.regWrite 0x004 4 w) t
  | opens {w : Word} (hb : s.status.busy = false) (hd : discarded s w = false) : Served s (.issueSpan w) (accept w s)
  | completes {t : State} (hb : s.status.busy = true) (ht : completeSpan s = .next t) : Served s .complete t
  | latches (e : HostEvent) (x : Word) {n : Nat} (hn : s.fresh ≤ n) : Served s e { s with hostData := x, fresh := n }
  | pokes {addr : Word} (b : Byte) (ha : addr.toNat < s.params.bufBytes) :
      Served s (.bufWrite addr b) (memWrite s addr.toNat [b])
  | resets : Served s .hwReset (hardwareReset s)

theorem served_of_busWrite {s t : State} {off : Nat} {w : Word} (hal : off % 4 = 0)
    (h : busWrite s off w = .next t) : Served s (.regWrite off 4 w) t := by
  cases hr : regAt off with
  | none =>
    rw [busWrite_of_none w hr] at h
    cases h
    exact .keeps _
  | some r =>
    cases hw : r.writable with
    | false =>
      rw [busWrite_readOnly w hr hw] at h
      cases h
      exact .keeps _
    | true =>
      cases hb : s.status.busy with
      | true =>
        rw [busWrite_busy w hr hw hb] at h
        cases h
        exact .drops _ hb
      | false =>
        by_cases hc : r = .cmd
        · subst hc
          rw [busWrite_of_cmd w hr] at h
          obtain rfl : 0x004 = off := regOffset_of_regAt hal hr
          rcases issue_cases s w with ⟨hbusy, _⟩ | ⟨_, _, hi⟩ | ⟨_, hd, hi⟩
          · simp [hb] at hbusy
          · rw [hi] at h
            cases h
            exact .keeps _
          · exact .runs hb hd (hi ▸ h)
        · rw [busWrite_idle w hr hw hc hb] at h
          cases h
          exact .stores w hb hw hc

theorem served_busRead (s : State) (off : Nat) (e : HostEvent) : Served s e (busRead s off) := by
  unfold busRead
  split
  next => exact .latches e _ le_rfl
  next =>
    split
    next => exact .latches e _ (Nat.le_succ _)
    next => exact .latches e _ le_rfl

theorem served_issueOpen (s : State) (w : Word) : Served s (.issueSpan w) (issueOpen s w) := by
  unfold issueOpen
  split
  next hb => exact .drops _ hb
  next hb =>
    split
    next => exact .keeps _
    next hd => exact .opens (by simpa using hb) (by simpa using hd)

theorem served_of_serve {s t : State} {e : HostEvent} (h : serve s e = .next t) : Served s e t := by
  cases e with
  | regWrite off width w =>
    rcases regAccess_cases off width (busWrite s off w) with ⟨_, hk⟩ | ⟨_, _, hk⟩ | ⟨hal, _, hk⟩
    · cases hk.symm.trans h
    · cases hk.symm.trans h
    · obtain ⟨rfl, hmod⟩ := regAccessAligned_iff.1 hal
      exact served_of_busWrite hmod (hk.symm.trans h)
  | regRead off width =>
    rcases regAccess_cases off width (.next (busRead s off)) with ⟨_, hk⟩ | ⟨_, _, hk⟩ | ⟨_, _, hk⟩
    · cases hk.symm.trans h
    · cases hk.symm.trans h
    · cases hk.symm.trans h
      exact served_busRead s off _
  | bufWrite addr b =>
    rcases bufAccess_cases s addr (memWrite s addr.toNat [b]) with ⟨_, hk⟩ | ⟨_, _, _, hk⟩ | ⟨ha, _, hk⟩
    · cases hk.symm.trans h
    · cases hk.symm.trans h
    · cases hk.symm.trans h
      exact .pokes b ha
  | bufRead addr =>
    rcases bufAccess_cases s addr { s with hostData := (readBuf s addr.toNat).setWidth 32 } with
      ⟨_, hk⟩ | ⟨_, _, _, hk⟩ | ⟨_, _, hk⟩
    · cases hk.symm.trans h
    · cases hk.symm.trans h
    · cases hk.symm.trans h
      exact .latches _ _ le_rfl
  | issueSpan w =>
    cases h
    exact served_issueOpen s w
  | complete =>
    simp only [serve] at h
    split at h
    next hb => exact .completes hb h
    next =>
      cases h
      exact .keeps _
  | hwReset =>
    cases h
    exact .resets

/-- What a step to the next state does. -/
theorem step_next_cases {s t : State} (h : step s = .next t) :
    (∃ e rest, s.host = e :: rest ∧ Served { s with host := rest } e t)
      ∨ s.host = [] ∧ s.status.busy = true ∧ completeSpan s = .next t
      ∨ t = s := by
  rcases serveNext_cases s with ⟨e, rest, hh, hk⟩ | ⟨hh, hb, hk⟩ | ⟨_, _, hk⟩
  · exact .inl ⟨e, rest, hh, served_of_serve (hk.symm.trans h)⟩
  · exact .inr (.inl ⟨hh, hb, hk.symm.trans h⟩)
  · cases hk.symm.trans h
    exact .inr (.inr rfl)

/-- What running the accepted word ends in. -/
theorem runAccepted_next_cases {s t : State} (h : runAccepted s = .next t) :
    (∃ e, t = raiseError (opcodeField s.cmd) e s) ∨ ∃ i, decode s.cmd = .ok i ∧ Ends i s t := by
  rcases runAccepted_cases s with ⟨e, _, hr⟩ | ⟨i, hi, hr⟩
  · cases hr.symm.trans h
    exact .inl ⟨_, rfl⟩
  · exact .inr ⟨i, hi, ends_of_exec (hr.symm.trans h)⟩

/-- What the completion of a running command ends in. -/
theorem completeSpan_next {s t : State} (h : completeSpan s = .next t) :
    ∃ u, runAccepted { s with spanDrop := false } = .next u ∧ t = settleWbusy s u := by
  unfold completeSpan at h
  split at h
  next u hu =>
    cases h
    exact ⟨u, hu, rfl⟩
  next => cases h
  next => cases h

/-! ### The steps that do not stop -/

theorem exists_next_runAccepted (s : State) : ∃ t, runAccepted s = .next t := by
  rcases runAccepted_cases s with ⟨e, _, hr⟩ | ⟨i, _, hr⟩
  · exact ⟨_, hr⟩
  · obtain ⟨t, ht, _⟩ := exec_ends i s
    exact ⟨t, hr.trans ht⟩

theorem exists_next_completeSpan (s : State) : ∃ t, completeSpan s = .next t := by
  obtain ⟨u, hu⟩ := exists_next_runAccepted { s with spanDrop := false }
  refine ⟨settleWbusy s u, ?_⟩
  unfold completeSpan
  rw [hu]

theorem exists_next_issue (s : State) (w : Word) : ∃ t, issue s w = .next t := by
  rcases issue_cases s w with ⟨_, hi⟩ | ⟨_, _, hi⟩ | ⟨_, _, hi⟩
  · exact ⟨_, hi⟩
  · exact ⟨_, hi⟩
  · exact hi ▸ exists_next_runAccepted _

theorem exists_next_busWrite (s : State) (off : Nat) (w : Word) : ∃ t, busWrite s off w = .next t := by
  cases hr : regAt off with
  | none => exact ⟨_, busWrite_of_none w hr⟩
  | some r =>
    by_cases hc : r = .cmd
    · rw [busWrite_of_cmd w (hc ▸ hr)]
      exact exists_next_issue s w
    · rw [busWrite_of_register w hr hc]
      split
      next => exact ⟨_, rfl⟩
      next => split <;> exact ⟨_, rfl⟩

theorem exists_next_serve_complete (s : State) : ∃ t, serve s .complete = .next t := by
  simp only [serve]
  split
  next => exact exists_next_completeSpan s
  next => exact ⟨_, rfl⟩

theorem exists_next_step_of_nil {s : State} (h : s.host = []) : ∃ t, step s = .next t := by
  rcases serveNext_cases s with ⟨e, rest, hh, _⟩ | ⟨_, _, hk⟩ | ⟨_, _, hk⟩
  · cases h.symm.trans hh
  · obtain ⟨t, ht⟩ := exists_next_completeSpan s
    exact ⟨t, hk.trans ht⟩
  · exact ⟨s, hk⟩

theorem step_of_host {s : State} {e : HostEvent} {rest : List HostEvent} (h : s.host = e :: rest) :
    step s = serve { s with host := rest } e := by
  show serveNext s = _
  unfold serveNext
  rw [h]

/-! ### The steps that stop -/

theorem regAccess_eq_registerAccess_iff {off width : Nat} {t : State} :
    regAccess off width (.next t) = .refused .registerAccess ↔ ¬ (width = 4 ∧ off % 4 = 0) := by
  rw [← regAccessAligned_iff]
  rcases regAccess_cases off width (.next t) with ⟨hal, hk⟩ | ⟨hal, _, hk⟩ | ⟨hal, _, hk⟩ <;> simp [hk, hal]

theorem regAccess_eq_outsideWindow_iff {off width : Nat} {t : State} :
    regAccess off width (.next t) = .refused .outsideWindow ↔ (width = 4 ∧ off % 4 = 0) ∧ 0x1400 ≤ off := by
  rw [← regAccessAligned_iff, ← not_lt, ← regAccessInWindow_iff]
  rcases regAccess_cases off width (.next t) with ⟨hal, hk⟩ | ⟨hal, hin, hk⟩ | ⟨hal, hin, hk⟩ <;> simp [*]

theorem regAccess_ne_fault {off width : Nat} {t : State} (f : Fault) : regAccess off width (.next t) ≠ .fault f := by
  rcases regAccess_cases off width (.next t) with ⟨_, hk⟩ | ⟨_, _, hk⟩ | ⟨_, _, hk⟩ <;> simp [hk]

theorem regAccess_ne_notModelled {off width : Nat} {t : State} (m : String) :
    regAccess off width (.next t) ≠ .refused (.notModelled m) := by
  rcases regAccess_cases off width (.next t) with ⟨_, hk⟩ | ⟨_, _, hk⟩ | ⟨_, _, hk⟩ <;> simp [hk]

theorem lt_bufBytes_iff {p : Params} {n : Nat} : n < p.bufBytes ↔ n ≤ p.bufLast.toNat := Nat.lt_succ_iff

theorem bufAccess_eq_bufAddress_iff {s k : State} {addr : Word} :
    bufAccess s addr k = .fault .bufAddress ↔ s.params.bufLast.toNat < addr.toNat := by
  rw [← not_le, ← lt_bufBytes_iff, not_lt]
  rcases bufAccess_cases s addr k with ⟨ha, hk⟩ | ⟨ha, _, _, hk⟩ | ⟨ha, _, hk⟩
  · simpa only [hk, true_iff] using ha
  · simpa [hk] using ha
  · simpa [hk] using ha

theorem bufAccess_eq_hostRace_iff {s k : State} {addr : Word} :
    bufAccess s addr k = .fault .hostRace
      ↔ addr.toNat ≤ s.params.bufLast.toNat ∧ s.status.busy = true ∧ inFlight s addr.toNat = true := by
  rw [← lt_bufBytes_iff]
  rcases bufAccess_cases s addr k with ⟨ha, hk⟩ | ⟨ha, hb, hf, hk⟩ | ⟨_, hf, hk⟩
  · simp only [hk, Host.Outcome.fault.injEq, reduceCtorEq, false_iff, not_and]
    exact fun hlt => absurd hlt (not_lt.2 ha)
  · simpa [hk, hb, hf] using ha
  · simp only [hk, reduceCtorEq, false_iff, not_and]
    exact fun _ hb => by simp [hf hb]

theorem bufAccess_ne_refused {s k : State} {addr : Word} (r : Refusal) : bufAccess s addr k ≠ .refused r := by
  rcases bufAccess_cases s addr k with ⟨_, hk⟩ | ⟨_, _, _, hk⟩ | ⟨_, _, hk⟩ <;> simp [hk]

theorem usesSrc_eq_readsSrc (i : Instr) : usesSrc i = readsSrc i := by cases i <;> rfl

theorem usesDst_eq_writesBuf (i : Instr) : usesDst i = writesBuf i := by cases i <;> rfl

/-- The bytes of a running command, by the command whose word stands in CMD (log 6). -/
theorem inFlight_iff {s : State} {a : Nat} :
    inFlight s a = true ↔ ∃ i, encode i = s.cmd
      ∧ (readsSrc i = true ∧ s.srcAddr.toNat ≤ a ∧ a < s.srcAddr.toNat + s.srcLen.toNat
        ∨ writesBuf i = true ∧ s.dstAddr.toNat ≤ a ∧ a < s.dstAddr.toNat + s.dstCap.toNat) := by
  unfold inFlight
  split
  next e he =>
    simp only [Bool.false_eq_true, false_iff, not_exists, not_and]
    intro i hi
    rw [← hi, decode_encode] at he
    cases he
  next i hi =>
    have hunique : ∀ j, encode j = s.cmd ↔ j = i := fun j => by
      rw [← decode_eq_ok_iff, hi, Except.ok.injEq, eq_comm]
    simp [hunique, usesSrc_eq_readsSrc, usesDst_eq_writesBuf, inRange_iff]

end Sys2Proof.Machine
end

section
/-! The invariant of the block (10_state.md R27 to R45, 60_exceptions.md R210): every update of the state keeps it. -/

namespace Sys2Proof.Machine

/-! ### Fields of the registers the invariant speaks of -/

@[simp] theorem errcodeWord_reserved (o : Byte) (e : CmdError) : (errcodeWord o e).extractLsb' 24 8 = 0 := by
  apply BitVec.eq_of_getLsbD_eq
  intro k hk
  simp only [errcodeWord, BitVec.getLsbD_extractLsb', BitVec.getLsbD_append]
  repeat rw [if_neg (by omega)]
  simp

@[simp] theorem errcodeWord_opcode (o : Byte) (e : CmdError) : (errcodeWord o e).extractLsb' 16 8 = o := by
  apply BitVec.eq_of_getLsbD_eq
  intro k hk
  simp only [errcodeWord, BitVec.getLsbD_extractLsb', BitVec.getLsbD_append]
  rw [if_neg (by omega), if_neg (by omega), if_pos (by omega), show 16 + k - 8 - 8 = k by omega]
  simp [hk]

theorem ErrClass.code_le (c : ErrClass) : c.code.toNat ≤ 13 := by cases c <;> decide

/-- RES_FLAGS holds the flags byte in 7:0, the path in 9:8 and 0 above (10_state.md R35). -/
theorem resFlagsWord_reserved (p : BitVec 2) (f : Byte) : (0#22 ++ p ++ f).extractLsb' 10 22 = 0 := by
  apply BitVec.eq_of_getLsbD_eq
  intro k hk
  simp only [BitVec.getLsbD_extractLsb', BitVec.getLsbD_append]
  repeat rw [if_neg (by omega)]
  simp

/-! ### The invariant over the updates -/

/-- No clause of the invariant speaks of WBUSY. -/
theorem inv_dropWrite {s : State} (h : Inv s) : Inv (dropWrite s) := { h with }

theorem inv_host {s : State} (h : Inv s) (rest : List HostEvent) : Inv { s with host := rest } := { h with }

theorem inv_writeReg {s : State} (h : Inv s) (r : Reg) (w : Word) : Inv (writeReg s r w) := by
  cases r <;> exact { h with }

theorem inv_memWrite {s : State} (h : Inv s) {x : Nat} {out : List Byte}
    (hin : ∀ a, x ≤ a → a < x + out.length → a < s.params.bufBytes) : Inv (memWrite s x out) :=
  { h with
    bufSorted := Memory.wf_writeBytes h.bufSorted x out
    bufInside := fun c hc => by
      rcases Memory.mem_writeBytes hc with ⟨h1, h2⟩ | hold
      · exact hin c.1 h1 h2
      · exact h.bufInside c hold }

/-- A write of a command inside its destination range stays in BUF (20_memory.md R63). -/
theorem lt_bufBytes_of_inBounds {p : Params} {a n : Word} (hb : inBounds p a n = true) {m x : Nat} (hm : m ≤ n.toNat)
    (h1 : a.toNat ≤ x) (h2 : x < a.toNat + m) : x < p.bufBytes := by
  rcases inBounds_iff.1 hb with h | h <;> omega

theorem inv_memScramble {s : State} (h : Inv s) (hdst : inBounds s.params s.dstAddr s.dstCap = true) :
    Inv (memScramble s s.dstAddr.toNat s.dstCap.toNat) :=
  { inv_memWrite h (x := s.dstAddr.toNat)
      (out := (List.range s.dstCap.toNat).map fun k => Config.freeByte (s.fresh + k))
      (fun _ => lt_bufBytes_of_inBounds hdst (by simp)) with
    epochUsed := Nat.lt_add_right _ h.epochUsed }

theorem inv_loadTable {s : State} (h : Inv s) (lens : Table Byte) : Inv (loadTable lens s) :=
  { h with
    codeCanonical := rfl
    nsymAgrees := rfl
    maxlenAgrees := rfl }

theorem inv_accept {s : State} (h : Inv s) {w : Word} (hd : discarded s w = false) : Inv (accept w s) :=
  { h with
    doneNotErr := by simp
    busyNotDone := by simp
    busyErr := fun _ herr => by simpa [discarded, show s.status.err = true from herr] using hd
    warnDone := by simp
    errcodeNamesCommand := fun _ hb => by simp at hb }

theorem inv_clearError {s : State} (h : Inv s) : Inv (clearError s) :=
  { h with
    doneNotErr := by simp
    busyErr := by simp
    errcodeErr := by simp
    errcodeReserved := by simp
    errcodeClass := by simp
    errcodeNamesCommand := by simp
    errResults := by simp }

theorem inv_result {s : State} (h : Inv s) (herr : s.status.err = false) (l a : Word) : Inv (result l a s) :=
  { h with
    doneNotErr := fun _ => herr
    busyNotDone := by simp
    busyErr := by simp
    warnDone := by simp
    errcodeNamesCommand := by simp [herr]
    errResults := by simp [herr] }

/-- What CTR.UNFRAME changes beside the results of a success (45_container.md R184). -/
theorem inv_result_locate {s : State} (h : Inv s) (herr : s.status.err = false) (l a : Word) (f : Byte) (o : Nat)
    (pi : Word) (warn : Bool) : Inv (result l a { locate f o pi s with status := { s.status with warn := warn } }) :=
  { inv_result h herr l a with
    epochUsed := by
      simp only [result_fresh, result_bufEpoch, locate_fresh, locate_bufEpoch]
      split
      · exact h.epochUsed
      · exact Nat.lt_succ_of_lt h.epochUsed
    busyNotDone := by simp
    warnDone := by simp
    errResults := by simp [herr]
    resFlagsReserved := resFlagsWord_reserved _ f }

theorem inv_raiseError {s : State} (h : Inv s) {o : Byte} (ho : o = opcodeField s.cmd) (e : CmdError) :
    Inv (raiseError o e s) :=
  { h with
    doneNotErr := by simp
    busyNotDone := by simp
    busyErr := by simp
    warnDone := by simp
    errcodeErr := by simpa using errcodeWord_ne_zero o e
    errcodeReserved := by simp
    errcodeClass := by simpa using e.cls.code_le
    errcodeNamesCommand := by simp [ho]
    errResults := by simp
    resFlagsReserved := by simp }

/-- The registers at their reset values, with any word in CMD and DONE 0 or 1 (40_control.md R127): of the state before,
only BUF matters. -/
theorem inv_resetRegisters {s : State} (hwf : s.buf.wf) (hin : ∀ c ∈ s.buf, c.1 < s.params.bufBytes)
    (hepoch : s.bufEpoch < s.fresh) (w : Word) (done : Bool) :
    Inv { resetRegisters s with cmd := w, status := ⟨false, done, false, false, false⟩ } where
  bufSorted := hwf
  bufInside := hin
  epochUsed := hepoch
  codeCanonical := canon_fill_zero.symm
  nsymAgrees := by simp
  maxlenAgrees := by simp
  doneNotErr := by simp
  busyNotDone := by simp
  busyErr := by simp
  warnDone := by simp
  errcodeErr := by simp
  errcodeReserved := by simp
  errcodeClass := by simp
  errcodeNamesCommand := by simp
  errResults := by simp
  resFlagsReserved := by simp

theorem inv_hardwareReset (s : State) : Inv (hardwareReset s) :=
  inv_resetRegisters (s := { s with buf := [], bufEpoch := s.fresh, fresh := s.fresh + 1 }) Memory.wf_nil
    (by simp) (Nat.lt_succ_self _) 0 false

theorem inv_reset : Inv State.reset :=
  inv_resetRegisters (s := State.reset) Memory.wf_nil (by simp [State.reset]) Nat.zero_lt_one 0 false

theorem inv_settleWbusy {s t : State} (h : Inv t) : Inv (settleWbusy s t) := by
  rcases settleWbusy_cases s t with e | e <;> rw [e]
  · exact h
  · exact { h with epochUsed := Nat.lt_succ_of_lt h.epochUsed }

/-! ### The invariant over commands and events -/

theorem inv_of_works {i : Instr} {s u : State} (h : Inv s) (hw : Works i s u)
    (herr : i ≠ .errClear → s.status.err = false) (l a : Word) : Inv (result l a u) := by
  cases hw with
  | nop => exact inv_result h (herr (by simp)) l a
  | errClear => exact inv_result (inv_clearError h) rfl l a
  | crcInit => exact inv_result (s := { s with crcState := crcMask }) { h with } (herr (by simp)) l a
  | crcUpdate c => exact inv_result (s := { s with crcState := c }) { h with } (herr (by simp)) l a
  | counts F => exact inv_result (s := { s with freq := F }) { h with } (herr (by simp)) l a
  | loads _ hi => exact inv_result (inv_loadTable h _) (herr (by rcases hi with rfl | rfl <;> simp)) l a
  | stores hi hdst hfit =>
    refine inv_result (inv_memWrite h fun x => lt_bufBytes_of_inBounds hdst (hfit h.nsymAgrees)) (herr ?_) l a
    rintro rfl
    cases hi
  | locates f o pi warn => exact inv_result_locate h (herr (by simp)) l a f o pi warn

theorem inv_of_fails {i : Instr} {s u : State} (h : Inv s) (hf : Fails i s u) : Inv u ∧ u.cmd = s.cmd := by
  cases hf with
  | unchanged => exact ⟨h, rfl⟩
  | empties => exact ⟨inv_loadTable h _, rfl⟩
  | scrambles hdst => exact ⟨inv_memScramble h hdst, rfl⟩

/-- A command that runs with ERR 1 is ERR.CLEAR or SRESET (40_control.md R120). -/
theorem err_false_of_running {s : State} {i : Instr} (h : Inv s) (hb : s.status.busy = true) (hi : decode s.cmd = .ok i)
    (hclear : i ≠ .errClear) (hreset : i ≠ .sreset) : s.status.err = false := by
  by_contra herr
  have hack := h.busyErr hb (by simpa using herr)
  rw [← encode_of_decode hi] at hack
  simp only [acknowledges, Bool.or_eq_true, beq_iff_eq] at hack
  rcases hack with hw | hw <;> have hd := congrArg decode hw <;> rw [decode_encode, decode_encode] at hd
  · exact hclear (Except.ok.inj hd)
  · exact hreset (Except.ok.inj hd)

/-- The running of the accepted command keeps the invariant. -/
theorem inv_runAccepted {s t : State} (h : Inv s) (hb : s.status.busy = true) (ht : runAccepted s = .next t) :
    Inv t := by
  rcases runAccepted_next_cases ht with ⟨e, rfl⟩ | ⟨i, hi, hends⟩
  · exact inv_raiseError h rfl e
  · cases hends with
    | resets => exact inv_resetRegisters h.bufSorted h.bufInside h.epochUsed _ true
    | fails hf e =>
      obtain ⟨hu, hcmd⟩ := inv_of_fails h hf
      exact inv_raiseError hu (by rw [hcmd, opcode_eq_opcodeField hi]) e
    | succeeds hw l a =>
      refine inv_of_works h hw (fun hclear => err_false_of_running h hb hi hclear ?_) l a
      rintro rfl
      cases hw with
      | loads _ hs => simp at hs
      | stores hs => cases hs

theorem inv_completeSpan {s t : State} (h : Inv s) (hb : s.status.busy = true) (ht : completeSpan s = .next t) :
    Inv t := by
  obtain ⟨u, hu, rfl⟩ := completeSpan_next ht
  exact inv_settleWbusy (inv_runAccepted (s := { s with spanDrop := false }) { h with } hb hu)

theorem inv_served {s t : State} {e : HostEvent} (h : Inv s) (hs : Served s e t) : Inv t := by
  cases hs with
  | keeps => exact h
  | drops => exact inv_dropWrite h
  | stores w => exact inv_writeReg h _ w
  | runs _ hd ht => exact inv_runAccepted (inv_accept h hd) rfl ht
  | opens _ hd => exact inv_accept h hd
  | completes hb ht => exact inv_completeSpan h hb ht
  | latches _ x hn => exact { h with epochUsed := lt_of_lt_of_le h.epochUsed hn }
  | pokes b ha => exact inv_memWrite h fun a h1 h2 => by simp at h2; omega
  | resets => exact inv_hardwareReset s

/-! ### LEN and WBUSY over commands and events -/

theorem completeTable_runAccepted {s t : State} (h : CompleteTable s.len) (ht : runAccepted s = .next t) :
    CompleteTable t.len := by
  rcases runAccepted_next_cases ht with ⟨e, rfl⟩ | ⟨i, _, hends⟩
  · exact h
  · rcases hends.len with hlen | hlen
    · exact hlen ▸ h
    · exact hlen

theorem completeTable_completeSpan {s t : State} (h : CompleteTable s.len) (ht : completeSpan s = .next t) :
    CompleteTable t.len := by
  obtain ⟨u, hu, rfl⟩ := completeSpan_next ht
  have hlen := completeTable_runAccepted (s := { s with spanDrop := false }) h hu
  rcases settleWbusy_cases s u with e | e <;> rw [e] <;> exact hlen

theorem completeTable_served {s t : State} {e : HostEvent} (h : CompleteTable s.len) (hs : Served s e t) :
    CompleteTable t.len := by
  cases hs with
  | stores w => rwa [writeReg_len]
  | runs _ _ ht => exact completeTable_runAccepted (s := accept _ s) h ht
  | completes _ ht => exact completeTable_completeSpan h ht
  | resets => exact completeTable_fill_zero
  | _ => exact h

/-- An accepted command that clears WBUSY is ERR.CLEAR or SRESET. -/
theorem acknowledge_of_runAccepted {s t : State} (hw : s.status.wbusy = true) (ht : runAccepted s = .next t)
    (hclear : t.status.wbusy = false) : s.cmd = 0x00000001 ∨ s.cmd = 0x00000002 := by
  rcases runAccepted_next_cases ht with ⟨e, rfl⟩ | ⟨i, hi, hends⟩
  · exact absurd (hw.symm.trans hclear) (by simp)
  · by_contra hne
    obtain ⟨h1, h2⟩ := not_or.1 hne
    rw [← encode_of_decode hi] at h1 h2
    have hkept := hends.wbusy (fun e => h1 (e ▸ rfl)) (fun e => h2 (e ▸ rfl))
    exact absurd (hw.symm.trans (hkept.symm.trans hclear)) (by simp)

theorem acknowledge_of_completeSpan {s t : State} (hw : s.status.wbusy = true) (ht : completeSpan s = .next t)
    (hclear : t.status.wbusy = false) : s.cmd = 0x00000001 ∨ s.cmd = 0x00000002 := by
  obtain ⟨u, hu, rfl⟩ := completeSpan_next ht
  unfold settleWbusy at hclear
  split at hclear
  next hc =>
    simp only [Bool.and_eq_true, beq_iff_eq] at hc
    exact .inl hc.2
  next => exact acknowledge_of_runAccepted (s := { s with spanDrop := false }) hw hu hclear

end Sys2Proof.Machine
end

section
/-! The invariants over a step, the stops of a step, and the state after reset. -/

namespace Sys2Proof.Proofs

open Sys2Proof.Machine Sys2Proof.Spec

/-- Settles O4: every update that the service of an event or the completion of a command can end in keeps the
invariant. -/
theorem stepKeepsInvariant : Obligations.StepKeepsInvariant := by
  intro s t h ht
  rcases step_next_cases ht with ⟨e, rest, _, hs⟩ | ⟨_, hb, hc⟩ | rfl
  · exact inv_served (inv_host h rest) hs
  · exact inv_completeSpan h hb hc
  · exact h

/-- Settles O5: only HUF.BUILD, HUF.RTABLE and the resets change LEN; the construction has Kraft sum 1, and the reader
accepts no other table. -/
theorem stepKeepsCompleteTable : Obligations.StepKeepsCompleteTable := by
  intro s t h ht
  rcases step_next_cases ht with ⟨e, rest, _, hs⟩ | ⟨_, _, hc⟩ | rfl
  · exact completeTable_served (s := { s with host := rest }) h hs
  · exact completeTable_completeSpan h hc
  · exact h

/-- Settles O59. -/
theorem wbusyClearedOnlyByAcknowledge : Obligations.WbusyClearedOnlyByAcknowledge := by
  intro s t hw ht hclear
  rcases step_next_cases ht with ⟨e, rest, hh, hs⟩ | ⟨hh, hb, hc⟩ | rfl
  · have hsame : t.status.wbusy ≠ s.status.wbusy := by simp [hw, hclear]
    cases hs with
    | runs hb _ ht =>
      exact .inr (.inl ⟨_, rest, hb, hh,
        acknowledge_of_runAccepted (s := accept _ { s with host := rest }) hw ht hclear⟩)
    | completes hb ht =>
      exact .inr (.inr ⟨hb, acknowledge_of_completeSpan (s := { s with host := rest }) hw ht hclear, .inr ⟨rest, hh⟩⟩)
    | resets => exact .inl ⟨rest, hh⟩
    | drops => cases hclear
    | stores w => simp at hsame
    | _ => exact absurd rfl hsame
  · exact .inr (.inr ⟨hb, acknowledge_of_completeSpan hw hc hclear, .inl hh⟩)
  · exact absurd (hw.symm.trans hclear) (by simp)

/-- Settles O15: the accesses to the window and to BUF stop as `regAccess` and `bufAccess` say, and every other event is
served. -/
theorem stepStopsExactlyOnHostAccess : Obligations.StepStopsExactlyOnHostAccess := by
  intro s
  rcases hs : s.host with _ | ⟨e, rest⟩
  · obtain ⟨t, ht⟩ := exists_next_step_of_nil hs
    simp [ht]
  have hstep := step_of_host hs
  cases e with
  | regWrite off width v =>
    obtain ⟨t, ht⟩ := exists_next_busWrite { s with host := rest } off v
    rw [serve, ht] at hstep
    simp [hstep, regAccess_ne_fault, regAccess_ne_notModelled, regAccess_eq_registerAccess_iff,
      regAccess_eq_outsideWindow_iff, and_assoc]
  | regRead off width =>
    rw [serve] at hstep
    simp [hstep, regAccess_ne_fault, regAccess_ne_notModelled, regAccess_eq_registerAccess_iff,
      regAccess_eq_outsideWindow_iff, and_assoc]
  | bufWrite addr b =>
    rw [serve] at hstep
    simp [hstep, bufAccess_ne_refused, bufAccess_eq_bufAddress_iff, bufAccess_eq_hostRace_iff, inFlight_iff]
  | bufRead addr =>
    rw [serve] at hstep
    simp [hstep, bufAccess_ne_refused, bufAccess_eq_bufAddress_iff, bufAccess_eq_hostRace_iff, inFlight_iff]
  | issueSpan w =>
    rw [serve] at hstep
    simp [hstep]
  | complete =>
    obtain ⟨t, ht⟩ := exists_next_serve_complete { s with host := rest }
    simp [hstep, ht]
  | hwReset =>
    rw [serve] at hstep
    simp [hstep]

/-- Settles O2. -/
theorem resetStateIsSound : Obligations.ResetStateIsSound := by
  refine ⟨fun r => ?_, inv_reset, completeTable_fill_zero⟩
  cases r
  case freq v => exact Table.get_fill _ v
  case len v | codeLo v | codeHi v => simp [readReg, State.reset, resetColumn]
  case status | crcValue => decide
  all_goals rfl

end Sys2Proof.Proofs
end

section
/-! What a command depends on (10_state.md R47, 30_encoding.md R81): from two states that agree on its inputs, its rule takes
the same branch and reports the same values. -/

namespace Sys2Proof.Machine

open Sys2Proof.Spec

/-- Two sound states that agree on what the rule of the command reads. -/
structure SameInputs (i : Instr) (s s' : State) : Prop where
  sound : Inv s
  sound' : Inv s'
  params : s'.params = s.params
  srcAddr : s'.srcAddr = s.srcAddr
  srcLen : s'.srcLen = s.srcLen
  dstAddr : s'.dstAddr = s.dstAddr
  dstCap : s'.dstCap = s.dstCap
  aux : s'.aux = s.aux
  src : readsSrc i = true →
    ∀ a, s.srcAddr.toNat ≤ a → a < s.srcAddr.toNat + s.srcLen.toNat → readBuf s' a = readBuf s a
  crcState : i = .crcUpdate → s'.crcState = s.crcState
  freq : i = .hufBuild → s'.freq = s.freq
  len : i = .hufWtable ∨ i = .bitPack ∨ i = .bitUnpack → s'.len = s.len

section
variable {i : Instr} {s s' : State} (h : SameInputs i s s')
include h

theorem SameInputs.srcBytes (hi : readsSrc i = true) : srcBytes s' = srcBytes s := by
  unfold Machine.srcBytes
  rw [h.srcAddr, h.srcLen]
  exact memRead_congr fun k hk => h.src hi _ (Nat.le_add_right _ _) (by omega)

theorem SameInputs.checkSrcSize : checkSrcSize s' = checkSrcSize s := by
  simp only [Machine.checkSrcSize, exceedsBlock, h.params, h.srcLen]

theorem SameInputs.checkAuxSize : checkAuxSize s' = checkAuxSize s := by
  simp only [Machine.checkAuxSize, exceedsBlock, h.params, h.aux]

theorem SameInputs.checkSrc : checkSrc s' = checkSrc s := by
  simp only [Machine.checkSrc, h.params, h.srcAddr, h.srcLen]

theorem SameInputs.checkDst : checkDst s' = checkDst s := by
  simp only [Machine.checkDst, h.params, h.dstAddr, h.dstCap]

theorem SameInputs.checkRanges : checkRanges s' = checkRanges s := by
  simp only [Machine.checkRanges, checkOverlap, h.checkSrc, h.checkDst, h.srcAddr, h.srcLen, h.dstAddr, h.dstCap]

theorem SameInputs.checkCap (n : Nat) : checkCap s' n = checkCap s n := by
  simp only [Machine.checkCap, h.dstCap]

theorem SameInputs.code (hi : i = .hufWtable ∨ i = .bitPack ∨ i = .bitUnpack) : s'.code = s.code := by
  rw [h.sound.codeCanonical, h.sound'.codeCanonical, h.len hi]

theorem SameInputs.nsym (hi : i = .hufWtable ∨ i = .bitPack ∨ i = .bitUnpack) : s'.nsym = s.nsym := by
  rw [h.sound.nsymAgrees, h.sound'.nsymAgrees, h.len hi]

theorem SameInputs.maxlen (hi : i = .hufWtable ∨ i = .bitPack ∨ i = .bitUnpack) : s'.maxlen = s.maxlen := by
  rw [h.sound.maxlenAgrees, h.sound'.maxlenAgrees, h.len hi]

end

theorem codeBits_congr {s s' : State} (hlen : s'.len = s.len) (hcode : s'.code = s.code) (v : Byte) :
    codeBits s' v = codeBits s v := by
  simp only [codeBits, hlen, hcode]

/-- Packing depends on LEN and CODE alone (44_bitpack.md R170). -/
theorem packBits_congr {s s' : State} (hlen : s'.len = s.len) (hcode : s'.code = s.code) (cap : Nat) (S : List Byte)
    (bits : List Bool) : packBits s' cap S bits = packBits s cap S bits := by
  induction S generalizing bits with
  | nil => rfl
  | cons v S ih =>
    simp only [packBits, codeBits_congr hlen hcode v, ih]
    rw [hlen]

theorem codeList_congr {s s' : State} (hlen : s'.len = s.len) (hcode : s'.code = s.code) : codeList s' = codeList s := by
  simp only [codeList, hlen, hcode]

/-- How a command ends in two states that agree on its inputs: with the same error, or with the same values in the same
places. -/
inductive EndsAlike (s s' : State) : Instr → State → State → Prop
  | nop : EndsAlike s s' .nop (result s.resLen s.resAux s) (result s'.resLen s'.resAux s')
  | errClear :
      EndsAlike s s' .errClear (result s.resLen s.resAux (clearError s)) (result s'.resLen s'.resAux (clearError s'))
  | sreset :
      EndsAlike s s' .sreset
        { resetRegisters s with cmd := encode .sreset, status := ⟨false, true, false, false, false⟩ }
        { resetRegisters s' with cmd := encode .sreset, status := ⟨false, true, false, false, false⟩ }
  | crc {i : Instr} (hi : i = .crcInit ∨ i = .crcUpdate) (c a : Word) {l l' : Word} (hl : l' = l) :
      EndsAlike s s' i (result l a { s with crcState := c }) (result l' a { s' with crcState := c })
  | counts (F : Table Word) (a : Word) {l l' : Word} (hl : l' = l) :
      EndsAlike s s' .hufCount (result l a { s with freq := F }) (result l' a { s' with freq := F })
  | loads {i : Instr} (hi : i = .hufBuild ∨ i = .hufRtable) (lens : Table Byte) (k l a : Word) :
      EndsAlike s s' i (result l a { loadTable lens s with nsym := k }) (result l a { loadTable lens s' with nsym := k })
  | stores {i : Instr} (hi : writesBuf i = true) (out : List Byte) {l : Word} (a : Word) (hl : l.toNat ≤ out.length) :
      EndsAlike s s' i (result l a (dstWrite s out)) (result l a (dstWrite s' out))
  | locates (f : Byte) {o : Nat} (ho : o = if pathOf f = .transform then 17 else 13) (pi l a : Word) {warn warn' : Bool}
      (hwarn : s.status.warn = s'.status.warn → warn = warn') :
      EndsAlike s s' .ctrUnframe (result l a { locate f o pi s with status := { s.status with warn := warn } })
        (result l a { locate f o pi s' with status := { s'.status with warn := warn' } })
  | fails {i : Instr} (hi : i ≠ .crcInit) (e : CmdError) (u u' : State) :
      EndsAlike s s' i (raiseError (opcode i) e u) (raiseError (opcode i) e u')

/-! ### Each command -/

section
variable {s s' : State}

theorem execCrcUpdate_alike (h : SameInputs .crcUpdate s s') : ∃ t t', execCrcUpdate s = .next t
    ∧ execCrcUpdate s' = .next t' ∧ EndsAlike s s' .crcUpdate t t' := by
  unfold execCrcUpdate
  rw [h.checkSrc, h.srcBytes rfl, h.crcState rfl]
  cases firstError [checkSrc s] with
  | some e => exact ⟨_, _, rfl, rfl, .fails (by simp) e s s'⟩
  | none => exact ⟨_, _, rfl, rfl, .crc (.inr rfl) (crcFold s.crcState (srcBytes s)) _ h.srcLen⟩

theorem execBwtFwd_alike (h : SameInputs .bwtFwd s s') : ∃ t t', execBwtFwd s = .next t
    ∧ execBwtFwd s' = .next t' ∧ EndsAlike s s' .bwtFwd t t' := by
  unfold execBwtFwd
  rw [h.checkSrcSize, h.checkRanges, h.checkCap, h.srcLen, h.srcBytes rfl]
  cases firstError (checkSrcSize s :: checkRanges s ++ [checkCap s s.srcLen.toNat]) with
  | some e => exact ⟨_, _, rfl, rfl, .fails (by simp) e s s'⟩
  | none => exact ⟨_, _, rfl, rfl, .stores rfl _ _ (by simp)⟩

theorem execBwtInv_alike (h : SameInputs .bwtInv s s') : ∃ t t', execBwtInv s = .next t
    ∧ execBwtInv s' = .next t' ∧ EndsAlike s s' .bwtInv t t' := by
  unfold execBwtInv
  rw [h.checkSrcSize, h.checkRanges, h.checkCap, h.srcLen, h.aux, h.srcBytes rfl]
  split
  next e _ => exact ⟨_, _, rfl, rfl, .fails (by simp) e s s'⟩
  next =>
    dsimp only
    split
    next e _ => exact ⟨_, _, rfl, rfl, .fails (by simp) e s s'⟩
    next => exact ⟨_, _, rfl, rfl, .stores rfl _ _ (by simp)⟩

theorem execHufCount_alike (h : SameInputs .hufCount s s') : ∃ t t', execHufCount s = .next t
    ∧ execHufCount s' = .next t' ∧ EndsAlike s s' .hufCount t t' := by
  unfold execHufCount
  rw [h.checkSrcSize, h.checkSrc, h.srcBytes rfl]
  split
  next e _ => exact ⟨_, _, rfl, rfl, .fails (by simp) e s s'⟩
  next => exact ⟨_, _, rfl, rfl, .counts _ _ h.srcLen⟩

theorem execHufBuild_alike (h : SameInputs .hufBuild s s') : ∃ t t', execHufBuild s = .next t
    ∧ execHufBuild s' = .next t' ∧ EndsAlike s s' .hufBuild t t' := by
  unfold execHufBuild
  rw [h.freq rfl]
  dsimp only
  split
  next e _ => exact ⟨_, _, rfl, rfl, .fails (by simp) e s s'⟩
  next => exact ⟨_, _, rfl, rfl, .loads (.inl rfl) _ _ _ _⟩

theorem execHufWtable_alike (h : SameInputs .hufWtable s s') : ∃ t t', execHufWtable s = .next t
    ∧ execHufWtable s' = .next t' ∧ EndsAlike s s' .hufWtable t t' := by
  have hcount := congrArg BitVec.toNat h.sound.nsymAgrees
  rw [toNat_ofNat_symbolCount] at hcount
  unfold execHufWtable
  dsimp only
  rw [h.checkDst, h.nsym (.inl rfl), h.checkCap, h.len (.inl rfl)]
  split
  next e _ => exact ⟨_, _, rfl, rfl, .fails (by simp) e s s'⟩
  next =>
    split
    next => exact ⟨_, _, rfl, rfl, .stores rfl [] 0 (by simp)⟩
    next =>
      refine ⟨_, _, rfl, rfl, .stores rfl _ _ ?_⟩
      rw [BitVec.toNat_ofNat, List.length_cons, length_tablePairs, ← hcount, add_comm (2 * _)]
      exact Nat.mod_le _ _

theorem execHufRtable_alike (h : SameInputs .hufRtable s s') : ∃ t t', execHufRtable s = .next t
    ∧ execHufRtable s' = .next t' ∧ EndsAlike s s' .hufRtable t t' := by
  unfold execHufRtable
  rw [h.checkSrc, h.srcBytes rfl]
  split
  next e _ => exact ⟨_, _, rfl, rfl, .fails (by simp) e s s'⟩
  next =>
    split
    next d _ => exact ⟨_, _, rfl, rfl, .fails (by simp) _ _ _⟩
    next => exact ⟨_, _, rfl, rfl, .loads (.inr rfl) _ _ _ _⟩

theorem execBitPack_alike (h : SameInputs .bitPack s s') : ∃ t t', execBitPack s = .next t
    ∧ execBitPack s' = .next t' ∧ EndsAlike s s' .bitPack t t' := by
  unfold execBitPack
  rw [h.checkSrcSize, h.checkRanges, h.srcBytes rfl, h.dstCap,
    packBits_congr (h.len (.inr (.inl rfl))) (h.code (.inr (.inl rfl)))]
  split
  next e _ => exact ⟨_, _, rfl, rfl, .fails (by simp) e s s'⟩
  next =>
    split
    next e _ => exact ⟨_, _, rfl, rfl, .fails (by simp) e _ _⟩
    next => exact ⟨_, _, rfl, rfl, .stores rfl _ _ (by simpa using Nat.mod_le _ _)⟩

theorem execBitUnpack_alike (h : SameInputs .bitUnpack s s') : ∃ t t', execBitUnpack s = .next t
    ∧ execBitUnpack s' = .next t' ∧ EndsAlike s s' .bitUnpack t t' := by
  have hi : Instr.bitUnpack = .hufWtable ∨ Instr.bitUnpack = .bitPack ∨ Instr.bitUnpack = .bitUnpack := .inr (.inr rfl)
  unfold execBitUnpack
  dsimp only
  rw [h.checkAuxSize, h.checkRanges, h.aux, h.checkCap, h.nsym hi, h.maxlen hi, h.srcBytes rfl,
    codeList_congr (h.len hi) (h.code hi)]
  split
  next e _ => exact ⟨_, _, rfl, rfl, .fails (by simp) e s s'⟩
  next =>
    split
    next d _ => exact ⟨_, _, rfl, rfl, .fails (by simp) _ s s'⟩
    next out left hout => exact ⟨_, _, rfl, rfl, .stores rfl _ _ (length_decodeMany hout).ge⟩

theorem execCtrFrame_alike {f : Byte} (h : SameInputs (.ctrFrame f) s s') : ∃ t t', execCtrFrame f s = .next t
    ∧ execCtrFrame f s' = .next t' ∧ EndsAlike s s' (.ctrFrame f) t t' := by
  unfold execCtrFrame
  rw [h.checkAuxSize, h.checkRanges, h.aux, h.srcLen, h.checkCap, h.params, h.srcBytes rfl]
  split
  next e _ => exact ⟨_, _, rfl, rfl, .fails (by simp) e s s'⟩
  next => exact ⟨_, _, rfl, rfl, .stores rfl _ _ (by simpa [headerLen] using Nat.mod_le _ _)⟩

theorem execCtrUnframe_alike (h : SameInputs .ctrUnframe s s') : ∃ t t', execCtrUnframe s = .next t
    ∧ execCtrUnframe s' = .next t' ∧ EndsAlike s s' .ctrUnframe t t' := by
  unfold execCtrUnframe
  rw [h.checkSrc, h.params, h.srcBytes rfl]
  split
  next e _ => exact ⟨_, _, rfl, rfl, .fails (by simp) e s s'⟩
  next =>
    dsimp only
    split
    next e _ => exact ⟨_, _, rfl, rfl, .fails (by simp) e s s'⟩
    next =>
      split
      next hp =>
        split
        next =>
          exact ⟨_, _, rfl, rfl,
            .locates _ (by simp [hp, headerLen]) _ _ _ (warn := true) (warn' := true) fun _ => rfl⟩
        next => exact ⟨_, _, rfl, rfl, .locates _ (by simp [hp, headerLen]) _ _ _ id⟩
      next hp => exact ⟨_, _, rfl, rfl, .locates _ (by simp [hp, headerLen]) _ _ _ id⟩
      next hp => exact ⟨_, _, rfl, rfl, .locates _ (by simp [hp, headerLen]) _ _ _ id⟩
      next hp => exact ⟨_, _, rfl, rfl, .locates _ (by simp [hp, headerLen]) _ _ _ id⟩

theorem execCtrRepl_alike (h : SameInputs .ctrRepl s s') : ∃ t t', execCtrRepl s = .next t
    ∧ execCtrRepl s' = .next t' ∧ EndsAlike s s' .ctrRepl t t' := by
  unfold execCtrRepl
  rw [h.checkAuxSize, h.checkRanges, h.aux, h.srcLen, h.checkCap, h.srcAddr]
  split
  next e _ => exact ⟨_, _, rfl, rfl, .fails (by simp) e s s'⟩
  next hnone =>
    have hone : s.srcLen = 1 := by
      simpa using firstError_eq_none.1 hnone (s.srcLen != 1, ⟨.illegalOperand, 4⟩) (by simp)
    rw [h.src rfl s.srcAddr.toNat le_rfl (by simp [hone])]
    exact ⟨_, _, rfl, rfl, .stores rfl _ _ (by simp)⟩

end

/-- From two states that agree on its inputs, a command ends alike. -/
theorem exec_alike {i : Instr} {s s' : State} (h : SameInputs i s s') :
    ∃ t t', exec i s = .next t ∧ exec i s' = .next t' ∧ EndsAlike s s' i t t' := by
  cases i with
  | nop => exact ⟨_, _, rfl, rfl, .nop⟩
  | errClear => exact ⟨_, _, rfl, rfl, .errClear⟩
  | sreset => exact ⟨_, _, rfl, rfl, .sreset⟩
  | crcInit => exact ⟨_, _, rfl, rfl, .crc (.inl rfl) crcMask _ rfl⟩
  | crcUpdate => exact execCrcUpdate_alike h
  | bwtFwd => exact execBwtFwd_alike h
  | bwtInv => exact execBwtInv_alike h
  | hufCount => exact execHufCount_alike h
  | hufBuild => exact execHufBuild_alike h
  | hufWtable => exact execHufWtable_alike h
  | hufRtable => exact execHufRtable_alike h
  | bitPack => exact execBitPack_alike h
  | bitUnpack => exact execBitUnpack_alike h
  | ctrFrame f => exact execCtrFrame_alike h
  | ctrUnframe => exact execCtrUnframe_alike h
  | ctrRepl => exact execCtrRepl_alike h

/-! ### What ends alike shows -/

/-- The path field of RES_FLAGS (10_state.md R35). -/
theorem resFlagsWord_path (p : BitVec 2) (f : Byte) : (0#22 ++ p ++ f).extractLsb' 8 2 = p := by
  apply BitVec.eq_of_getLsbD_eq
  intro k hk
  simp only [BitVec.getLsbD_extractLsb', BitVec.getLsbD_append]
  rw [if_neg (by omega), if_pos (by omega), Nat.add_sub_cancel_left]
  simp [hk]

theorem Path.code_eq_one_iff (p : Path) : p.code = 1 ↔ p = .transform := by cases p <;> decide

/-- The bytes of a store that a range inside it reads. -/
theorem readBuf_dstWrite_eq {s s' : State} (hd : s'.dstAddr = s.dstAddr) (out : List Byte) {a : Nat}
    (h1 : s.dstAddr.toNat ≤ a) (h2 : a < s.dstAddr.toNat + out.length) :
    readBuf (dstWrite s out) a = readBuf (dstWrite s' out) a := by
  obtain ⟨k, rfl⟩ := Nat.exists_eq_add_of_le h1
  have hk : k < out.length := by omega
  unfold dstWrite
  rw [readBuf_memWrite_inside _ _ _ _ hk, hd, readBuf_memWrite_inside _ _ _ _ hk]

section
variable {i : Instr} {s s' t t' : State} (h : EndsAlike s s' i t t')
include h

theorem EndsAlike.done : t.status.done = t'.status.done := by
  cases h <;> rfl

theorem EndsAlike.warn (hw : s.status.warn = s'.status.warn) : t.status.warn = t'.status.warn := by
  cases h with
  | sreset => rfl
  | fails => rfl
  | locates _ _ _ _ _ hwarn => exact hwarn hw
  | _ => exact hw

theorem EndsAlike.results (hn : i ≠ .nop) (hc : i ≠ .errClear) : t.resLen = t'.resLen ∧ t.resAux = t'.resAux := by
  cases h with
  | nop => contradiction
  | errClear => contradiction
  | crc _ _ _ hl => exact ⟨hl.symm, rfl⟩
  | counts _ _ hl => exact ⟨hl.symm, rfl⟩
  | _ => exact ⟨rfl, rfl⟩

theorem EndsAlike.errcode (hd : t.status.done = false) : t.errcode = t'.errcode := by
  cases h with
  | fails => rfl
  | _ => cases hd

theorem EndsAlike.stored (hdst : s'.dstAddr = s.dstAddr) (hd : t.status.done = true) (hi : writesBuf i = true) (a : Nat)
    (h1 : s.dstAddr.toNat ≤ a) (h2 : a < s.dstAddr.toNat + t.resLen.toNat) : readBuf t a = readBuf t' a := by
  cases h with
  | stores _ out _ hl => exact readBuf_dstWrite_eq hdst out h1 (lt_of_lt_of_le h2 (Nat.add_le_add_left hl _))
  | crc hc => rcases hc with rfl | rfl <;> cases hi
  | loads hc => rcases hc with rfl | rfl <;> cases hi
  | fails => cases hd
  | _ => cases hi

theorem EndsAlike.crcState (hi : i = .crcInit ∨ i = .crcUpdate ∧ t.status.done = true) : t.crcState = t'.crcState := by
  cases h with
  | crc => rfl
  | stores hs => rcases hi with rfl | ⟨rfl, _⟩ <;> cases hs
  | loads hl => rcases hl with rfl | rfl <;> simp at hi
  | fails hne =>
    rcases hi with rfl | ⟨_, hd⟩
    · contradiction
    · cases hd
  | _ => simp at hi

theorem EndsAlike.freq (hi : i = .hufCount) (hd : t.status.done = true) : t.freq = t'.freq := by
  subst hi
  cases h with
  | counts => rfl
  | crc hc => simp at hc
  | loads hl => simp at hl
  | stores hs => cases hs
  | fails => cases hd

theorem EndsAlike.tables (hi : i = .hufBuild ∨ i = .hufRtable) (hd : t.status.done = true) :
    t.len = t'.len ∧ t.code = t'.code ∧ t.nsym = t'.nsym ∧ t.maxlen = t'.maxlen := by
  cases h with
  | loads => exact ⟨rfl, rfl, rfl, rfl⟩
  | crc hc => rcases hc with rfl | rfl <;> simp at hi
  | stores hs => rcases hi with rfl | rfl <;> cases hs
  | fails => cases hd
  | _ => simp at hi

theorem EndsAlike.located (hsrc : s'.srcAddr = s.srcAddr) (hi : i = .ctrUnframe) :
    t.resFlags = t'.resFlags ∧ t.resPi = t'.resPi
      ∧ (s.srcAddr.toNat + (if t.resFlags.extractLsb' 8 2 = 1 then 17 else 13) < 2 ^ 32 → t.resAddr = t'.resAddr) := by
  subst hi
  cases h with
  | locates f ho pi l a hwarn =>
    refine ⟨rfl, rfl, fun hfit => ?_⟩
    have hfit : s.srcAddr.toNat + (if (pathOf f).code = 1 then 17 else 13) < 2 ^ 32 := by
      rwa [← resFlagsWord_path (pathOf f).code f]
    simp only [Path.code_eq_one_iff, ← ho] at hfit
    simp only [result_resAddr, locate_resAddr, addressResult, hsrc, if_pos hfit]
  | fails => exact ⟨rfl, rfl, fun _ => rfl⟩
  | crc hc => simp at hc
  | loads hl => simp at hl
  | stores hs => cases hs

end

end Sys2Proof.Machine
end

section
/-! What a command gives depends only on what its rule reads (10_state.md R47). -/

namespace Sys2Proof.Proofs

open Sys2Proof.Machine Sys2Proof.Spec

/-- Settles O57: the rule takes the same branch in both states and reports the same values. -/
theorem resultsDependOnlyOnOperands : Obligations.ResultsDependOnlyOnOperands := by
  intro i s s' t t' hs hs' hparams hregs hsrc hcrc hfreq hlen ht ht'
  obtain ⟨hsrcAddr, hsrcLen, hdstAddr, hdstCap, haux⟩ := hregs
  have hin : SameInputs i s s' :=
    ⟨hs, hs', hparams.symm, hsrcAddr.symm, hsrcLen.symm, hdstAddr.symm, hdstCap.symm, haux.symm,
      fun hi a h1 h2 => (hsrc hi a h1 h2).symm, fun hi => (hcrc hi).symm, fun hi => (hfreq hi).symm,
      fun hi => (hlen hi).symm⟩
  obtain ⟨u, u', hu, hu', h⟩ := exec_alike hin
  cases hu.symm.trans ht
  cases hu'.symm.trans ht'
  exact ⟨h.done, h.warn, h.results, h.errcode, h.stored hin.dstAddr, h.crcState, h.freq, h.tables,
    h.located hin.srcAddr⟩

end Sys2Proof.Proofs
end

section
/-! What a command stores in BUF, and what of BUF its rule reads (20_memory.md R65, R66, R72): each rule is an update of the
state, chosen from the registers and the bytes of the source range alone. -/

namespace Sys2Proof.Machine

open Sys2Proof.Spec

/-! ### Writes that share no address -/

/-- Two writes to addresses that they do not share may change places: the canonical form of BUF keeps no order. -/
theorem Memory.writeBytes_comm {m : Memory} (hm : m.wf) {a x : Nat} {vs ws : List Byte}
    (h : x + ws.length ≤ a ∨ a + vs.length ≤ x) :
    (m.writeBytes x ws).writeBytes a vs = (m.writeBytes a vs).writeBytes x ws := by
  refine Memory.ext_of_wf (Memory.wf_writeBytes (Memory.wf_writeBytes hm _ _) _ _)
    (Memory.wf_writeBytes (Memory.wf_writeBytes hm _ _) _ _) fun c => ?_
  by_cases hc : x ≤ c ∧ c < x + ws.length
  · obtain ⟨k, rfl⟩ := Nat.exists_eq_add_of_le hc.1
    have hk : k < ws.length := by omega
    rw [Memory.lookup_writeBytes_outside (a := a) (by omega), Memory.lookup_writeBytes_inside _ x _ k hk,
      Memory.lookup_writeBytes_inside _ x _ k hk]
  · have hx (m' : Memory) : (m'.writeBytes x ws).lookup c = m'.lookup c :=
      Memory.lookup_writeBytes_outside (by omega)
    rw [hx]
    by_cases hc' : a ≤ c ∧ c < a + vs.length
    · obtain ⟨k, rfl⟩ := Nat.exists_eq_add_of_le hc'.1
      have hk : k < vs.length := by omega
      rw [Memory.lookup_writeBytes_inside _ a _ k hk, Memory.lookup_writeBytes_inside _ a _ k hk]
    · have ha (m' : Memory) : (m'.writeBytes a vs).lookup c = m'.lookup c :=
        Memory.lookup_writeBytes_outside (by omega)
      rw [ha, ha, hx]

/-! ### The state beside other bytes of BUF -/

/-- The state with other contents of BUF and other events of the host to come. -/
def withBufHost (s : State) (m : Memory) (evs : List HostEvent) : State := { s with buf := m, host := evs }

section
variable (s : State) (m : Memory) (evs : List HostEvent)

@[simp] theorem withBufHost_params : (withBufHost s m evs).params = s.params := rfl
@[simp] theorem withBufHost_srcAddr : (withBufHost s m evs).srcAddr = s.srcAddr := rfl
@[simp] theorem withBufHost_srcLen : (withBufHost s m evs).srcLen = s.srcLen := rfl
@[simp] theorem withBufHost_dstCap : (withBufHost s m evs).dstCap = s.dstCap := rfl
@[simp] theorem withBufHost_aux : (withBufHost s m evs).aux = s.aux := rfl
@[simp] theorem withBufHost_crcState : (withBufHost s m evs).crcState = s.crcState := rfl
@[simp] theorem withBufHost_nsym : (withBufHost s m evs).nsym = s.nsym := rfl
@[simp] theorem withBufHost_maxlen : (withBufHost s m evs).maxlen = s.maxlen := rfl
@[simp] theorem withBufHost_freq : (withBufHost s m evs).freq = s.freq := rfl
@[simp] theorem withBufHost_len : (withBufHost s m evs).len = s.len := rfl
@[simp] theorem checkSrcSize_withBufHost : checkSrcSize (withBufHost s m evs) = checkSrcSize s := rfl
@[simp] theorem checkAuxSize_withBufHost : checkAuxSize (withBufHost s m evs) = checkAuxSize s := rfl
@[simp] theorem checkSrc_withBufHost : checkSrc (withBufHost s m evs) = checkSrc s := rfl
@[simp] theorem checkDst_withBufHost : checkDst (withBufHost s m evs) = checkDst s := rfl
@[simp] theorem checkRanges_withBufHost : checkRanges (withBufHost s m evs) = checkRanges s := rfl
@[simp] theorem checkCap_withBufHost (n : Nat) : checkCap (withBufHost s m evs) n = checkCap s n := rfl
@[simp] theorem codeList_withBufHost : codeList (withBufHost s m evs) = codeList s := rfl
@[simp] theorem packBits_withBufHost (cap : Nat) (S : List Byte) (bits : List Bool) :
    packBits (withBufHost s m evs) cap S bits = packBits s cap S bits :=
  packBits_congr (s := s) (s' := withBufHost s m evs) rfl rfl cap S bits

end

/-- A memory holds the source bytes of a state. -/
def SameSource (s : State) (m : Memory) : Prop :=
  ∀ a, s.srcAddr.toNat ≤ a → a < s.srcAddr.toNat + s.srcLen.toNat → m.lookup a = s.buf.lookup a

theorem SameSource.readBuf {s : State} {m : Memory} (h : SameSource s m) (evs : List HostEvent) {a : Nat}
    (h1 : s.srcAddr.toNat ≤ a) (h2 : a < s.srcAddr.toNat + s.srcLen.toNat) :
    readBuf (withBufHost s m evs) a = Machine.readBuf s a :=
  readBuf_congr (h a h1 h2) rfl

theorem SameSource.srcBytes {s : State} {m : Memory} (h : SameSource s m) (evs : List HostEvent) :
    srcBytes (withBufHost s m evs) = Machine.srcBytes s :=
  memRead_congr fun k hk => h.readBuf evs (Nat.le_add_right _ k) (Nat.add_lt_add_left hk _)

/-! ### The updates of the state that a command is -/

/-- An update that neither reads nor changes BUF and the host's events. -/
structure LeavesBuf (f : State → State) : Prop where
  withBufHost : ∀ u m evs, f (withBufHost u m evs) = withBufHost (f u) m evs
  epoch : ∀ u, (f u).bufEpoch = u.bufEpoch

theorem LeavesBuf.buf {f : State → State} (h : LeavesBuf f) (u : State) : (f u).buf = u.buf :=
  (congrArg State.buf (h.withBufHost u u.buf u.host) :)

/-- What the rule of a command does to a state, its branch and the values it reports being chosen: `s` is the state they
were chosen in. -/
inductive Update (s : State) : Instr → (State → State) → Prop
  | reports {i : Instr} {f : State → State} (hi : writesBuf i = false) (hf : LeavesBuf f) : Update s i f
  | fails (i : Instr) (e : CmdError) : Update s i (raiseError (opcode i) e)
  | scrambles (e : CmdError) :
      Update s .bitPack fun u => raiseError (opcode .bitPack) e (memScramble u u.dstAddr.toNat u.dstCap.toNat)
  | stores {i : Instr} {out : List Byte} {l : Word} (a : Word) (hi : writesBuf i = true) (hl : l.toNat = out.length)
      (hfit : out.length ≤ s.dstCap.toNat) : Update s i fun u => result l a (dstWrite u out)

/-- The rule of a command does the same update in `s` and in `s` beside other contents of BUF. -/
def ActsAlike (i : Instr) (s : State) (m : Memory) (evs : List HostEvent) : Prop :=
  ∃ f, Update s i f ∧ exec i s = .next (f s) ∧ exec i (withBufHost s m evs) = .next (f (withBufHost s m evs))

/-! ### Each command -/

theorem toNat_ofNat_of_le {n : Nat} {c : Word} (h : n ≤ c.toNat) : (BitVec.ofNat 32 n).toNat = n := by
  rw [BitVec.toNat_ofNat]
  exact Nat.mod_eq_of_lt (lt_of_le_of_lt h c.isLt)

section
variable {s : State} {m : Memory} (evs : List HostEvent)

theorem actsAlike_crcUpdate (h : SameSource s m) : ActsAlike .crcUpdate s m evs := by
  dsimp only [ActsAlike, exec, execCrcUpdate, crcValue]
  rw [checkSrc_withBufHost, withBufHost_srcLen, withBufHost_crcState, h.srcBytes]
  split
  next e _ => exact ⟨_, .fails _ e, rfl, rfl⟩
  next =>
    exact ⟨fun u => result _ _ { u with crcState := crcFold s.crcState (srcBytes s) },
      .reports rfl ⟨fun _ _ _ => rfl, fun _ => rfl⟩, rfl, rfl⟩

theorem actsAlike_bwtFwd (h : SameSource s m) : ActsAlike .bwtFwd s m evs := by
  dsimp only [ActsAlike, exec, execBwtFwd]
  rw [checkSrcSize_withBufHost, checkRanges_withBufHost, checkCap_withBufHost, withBufHost_srcLen, h.srcBytes]
  split
  next e _ => exact ⟨_, .fails _ e, rfl, rfl⟩
  next hnone =>
    have hcap := need_le_of_none (s := s) hnone (need := s.srcLen.toNat) (by simp)
    exact ⟨_, .stores _ rfl (by simp) (by simpa), rfl, rfl⟩

theorem actsAlike_bwtInv (h : SameSource s m) : ActsAlike .bwtInv s m evs := by
  dsimp only [ActsAlike, exec, execBwtInv]
  rw [checkSrcSize_withBufHost, checkRanges_withBufHost, checkCap_withBufHost, withBufHost_srcLen, withBufHost_aux,
    h.srcBytes]
  split
  next e _ => exact ⟨_, .fails _ e, rfl, rfl⟩
  next hnone =>
    have hcap := need_le_of_none (s := s) hnone (need := s.srcLen.toNat) (by simp)
    split
    next e _ => exact ⟨_, .fails _ e, rfl, rfl⟩
    next => exact ⟨_, .stores _ rfl (by simp) (by simpa), rfl, rfl⟩

theorem actsAlike_hufCount (h : SameSource s m) : ActsAlike .hufCount s m evs := by
  dsimp only [ActsAlike, exec, execHufCount]
  rw [checkSrcSize_withBufHost, checkSrc_withBufHost, withBufHost_srcLen, h.srcBytes]
  split
  next e _ => exact ⟨_, .fails _ e, rfl, rfl⟩
  next =>
    exact ⟨fun u => result _ _ { u with freq := frequencies (srcBytes s) },
      .reports rfl ⟨fun _ _ _ => rfl, fun _ => rfl⟩, rfl, rfl⟩

theorem actsAlike_hufBuild : ActsAlike .hufBuild s m evs := by
  dsimp only [ActsAlike, exec, execHufBuild, loadTable_nsym]
  rw [withBufHost_freq]
  split
  next e _ => exact ⟨_, .fails _ e, rfl, rfl⟩
  next =>
    exact ⟨fun u => result _ _ (loadTable (Table.ofFn fun v => BitVec.ofNat 8 ((huffLengths s.freq).get v)) u),
      .reports rfl ⟨fun _ _ _ => rfl, fun _ => rfl⟩, rfl, rfl⟩

theorem actsAlike_hufWtable (hn : s.nsym.toNat = symbolCount s.len) : ActsAlike .hufWtable s m evs := by
  dsimp only [ActsAlike, exec, execHufWtable]
  rw [checkDst_withBufHost, checkCap_withBufHost, withBufHost_nsym, withBufHost_len]
  split
  next e _ => exact ⟨_, .fails _ e, rfl, rfl⟩
  next hnone =>
    split
    next => exact ⟨_, .stores (out := []) 0 rfl rfl (Nat.zero_le _), rfl, rfl⟩
    next hK =>
      have hcap := firstError_eq_none.1 hnone _ (List.mem_cons_of_mem _ (List.mem_singleton_self _))
      simp only [checkCap, hK, ne_eq, not_false_eq_true, decide_true, Bool.true_and, decide_eq_false_iff_not, not_lt]
        at hcap
      have hlen : (BitVec.ofNat 8 (s.nsym.toNat - 1) :: tablePairs s.len).length = 1 + 2 * s.nsym.toNat := by
        rw [List.length_cons, length_tablePairs, hn, add_comm]
      exact ⟨_, .stores _ rfl ((toNat_ofNat_of_le hcap).trans hlen.symm) (hlen ▸ hcap), rfl, rfl⟩

theorem actsAlike_hufRtable (h : SameSource s m) : ActsAlike .hufRtable s m evs := by
  dsimp only [ActsAlike, exec, execHufRtable]
  rw [checkSrc_withBufHost, h.srcBytes]
  split
  next e _ => exact ⟨_, .fails _ e, rfl, rfl⟩
  next =>
    split
    next d _ =>
      exact ⟨fun u => raiseError _ ⟨.invalidCodeTable, d⟩ (loadTable (Table.fill 0) u),
        .reports rfl ⟨fun _ _ _ => rfl, fun _ => rfl⟩, rfl, rfl⟩
    next lens K _ =>
      exact ⟨fun u => result _ _ { loadTable lens u with nsym := BitVec.ofNat 32 K },
        .reports rfl ⟨fun _ _ _ => rfl, fun _ => rfl⟩, rfl, rfl⟩

theorem actsAlike_bitPack (h : SameSource s m) : ActsAlike .bitPack s m evs := by
  dsimp only [ActsAlike, exec, execBitPack]
  rw [checkSrcSize_withBufHost, checkRanges_withBufHost, packBits_withBufHost, withBufHost_dstCap, h.srcBytes]
  split
  next e _ => exact ⟨_, .fails _ e, rfl, rfl⟩
  next =>
    split
    next e _ => exact ⟨_, .scrambles e, rfl, rfl⟩
    next bits hbits =>
      have hfit := bytesFor_packBits_le hbits (Nat.zero_le _)
      exact ⟨_, .stores _ rfl (by rw [length_packBytes, toNat_ofNat_of_le hfit]) (by simpa), rfl, rfl⟩

theorem actsAlike_bitUnpack (h : SameSource s m) : ActsAlike .bitUnpack s m evs := by
  dsimp only [ActsAlike, exec, execBitUnpack]
  rw [checkAuxSize_withBufHost, checkRanges_withBufHost, checkCap_withBufHost, codeList_withBufHost, withBufHost_aux,
    withBufHost_nsym, withBufHost_maxlen, h.srcBytes]
  split
  next e _ => exact ⟨_, .fails _ e, rfl, rfl⟩
  next hnone =>
    have hcap := need_le_of_none (s := s) hnone (need := s.aux.toNat) (by simp)
    split
    next d _ => exact ⟨_, .fails _ ⟨.corruptPayload, d⟩, rfl, rfl⟩
    next out left hout =>
      have hlen := length_decodeMany hout
      exact ⟨_, .stores _ rfl hlen.symm (hlen ▸ hcap), rfl, rfl⟩

theorem actsAlike_ctrFrame (f : Byte) (h : SameSource s m) : ActsAlike (.ctrFrame f) s m evs := by
  dsimp only [ActsAlike, exec, execCtrFrame]
  rw [checkAuxSize_withBufHost, checkRanges_withBufHost, checkCap_withBufHost, withBufHost_params,
    withBufHost_srcLen, withBufHost_aux, h.srcBytes]
  split
  next e _ => exact ⟨_, .fails _ e, rfl, rfl⟩
  next hnone =>
    have hcap := need_le_of_none (s := s) hnone (need := headerLen + s.srcLen.toNat) (by simp)
    have hlen : (container s.params.magic (srcBytes s) s.aux f).length = headerLen + s.srcLen.toNat := by
      simp [headerLen]
    exact ⟨_, .stores _ rfl ((toNat_ofNat_of_le hcap).trans hlen.symm) (hlen ▸ hcap), rfl, rfl⟩

theorem actsAlike_ctrUnframe (h : SameSource s m) : ActsAlike .ctrUnframe s m evs := by
  dsimp only [ActsAlike, exec, execCtrUnframe]
  rw [checkSrc_withBufHost, withBufHost_params, h.srcBytes]
  split
  next e _ => exact ⟨_, .fails _ e, rfl, rfl⟩
  next =>
    split
    next e _ => exact ⟨_, .fails _ e, rfl, rfl⟩
    next =>
      split
      next =>
        split
        next =>
          exact ⟨fun u => result _ _ { locate _ headerLen 0 u with status := { u.status with warn := true } },
            .reports rfl ⟨fun _ _ _ => rfl, fun _ => rfl⟩, rfl, rfl⟩
        next => exact ⟨fun u => result _ _ (locate _ _ _ u), .reports rfl ⟨fun _ _ _ => rfl, fun _ => rfl⟩, rfl, rfl⟩
      all_goals
        exact ⟨fun u => result _ _ (locate _ _ _ u), .reports rfl ⟨fun _ _ _ => rfl, fun _ => rfl⟩, rfl, rfl⟩

theorem actsAlike_ctrRepl (h : SameSource s m) : ActsAlike .ctrRepl s m evs := by
  dsimp only [ActsAlike, exec, execCtrRepl]
  rw [checkAuxSize_withBufHost, checkRanges_withBufHost, checkCap_withBufHost, withBufHost_srcAddr,
    withBufHost_srcLen, withBufHost_aux]
  split
  next e _ => exact ⟨_, .fails _ e, rfl, rfl⟩
  next hnone =>
    have hcap := need_le_of_none (s := s) hnone (need := s.aux.toNat) (by simp)
    have hone : s.srcLen = 1 := by
      simpa using firstError_eq_none.1 hnone (s.srcLen != 1, ⟨.illegalOperand, 4⟩) (by simp)
    rw [h.readBuf evs le_rfl (by simp [hone])]
    exact ⟨_, .stores _ rfl (by simp) (by simpa), rfl, rfl⟩

/-- A command acts alike beside other contents of BUF that hold its source bytes. -/
theorem exec_actsAlike (i : Instr) (hn : s.nsym.toNat = symbolCount s.len) (h : readsSrc i = true → SameSource s m) :
    ActsAlike i s m evs := by
  cases i with
  | nop => exact ⟨fun u => result u.resLen u.resAux u, .reports rfl ⟨fun _ _ _ => rfl, fun _ => rfl⟩, rfl, rfl⟩
  | errClear =>
    exact ⟨fun u => result u.resLen u.resAux (clearError u), .reports rfl ⟨fun _ _ _ => rfl, fun _ => rfl⟩, rfl, rfl⟩
  | sreset =>
    exact ⟨fun u => { resetRegisters u with cmd := encode .sreset, status := ⟨false, true, false, false, false⟩ },
      .reports rfl ⟨fun _ _ _ => rfl, fun _ => rfl⟩, rfl, rfl⟩
  | crcInit =>
    exact ⟨fun u => result 0 (crcMask ^^^ crcMask) { u with crcState := crcMask },
      .reports rfl ⟨fun _ _ _ => rfl, fun _ => rfl⟩, rfl, rfl⟩
  | crcUpdate => exact actsAlike_crcUpdate evs (h rfl)
  | bwtFwd => exact actsAlike_bwtFwd evs (h rfl)
  | bwtInv => exact actsAlike_bwtInv evs (h rfl)
  | hufCount => exact actsAlike_hufCount evs (h rfl)
  | hufBuild => exact actsAlike_hufBuild evs
  | hufWtable => exact actsAlike_hufWtable evs hn
  | hufRtable => exact actsAlike_hufRtable evs (h rfl)
  | bitPack => exact actsAlike_bitPack evs (h rfl)
  | bitUnpack => exact actsAlike_bitUnpack evs (h rfl)
  | ctrFrame f => exact actsAlike_ctrFrame evs f (h rfl)
  | ctrUnframe => exact actsAlike_ctrUnframe evs (h rfl)
  | ctrRepl => exact actsAlike_ctrRepl evs (h rfl)

end

/-! ### What an update does to BUF -/

section
variable {i : Instr} {s : State} {f : State → State} (h : Update s i f)
include h

/-- A byte that an update changes lies in the destination range, on success among its first RES_LEN bytes (20_memory.md
R65, R66). -/
theorem Update.changes {a : Nat} (ha : readBuf (f s) a ≠ readBuf s a) :
    writesBuf i = true ∧ s.dstAddr.toNat ≤ a ∧ a < s.dstAddr.toNat + s.dstCap.toNat
      ∧ ((f s).status.done = true → a < s.dstAddr.toNat + (f s).resLen.toNat) := by
  cases h with
  | reports _ hf => exact absurd (readBuf_congr (by rw [hf.buf]) (hf.epoch s)) ha
  | fails => exact absurd rfl ha
  | scrambles e =>
    have hin : s.dstAddr.toNat ≤ a ∧ a < s.dstAddr.toNat + s.dstCap.toNat := by
      by_contra hout
      exact ha (readBuf_memScramble_outside (s := s) (x := s.dstAddr.toNat) (n := s.dstCap.toNat) (by omega))
    exact ⟨rfl, hin.1, hin.2, fun hdone => by cases hdone⟩
  | @stores _ out _ _ hi hl hfit =>
    have hin : s.dstAddr.toNat ≤ a ∧ a < s.dstAddr.toNat + out.length := by
      by_contra hout
      exact ha (readBuf_memWrite_outside (s := s) (x := s.dstAddr.toNat) (v := out) (by omega))
    exact ⟨hi, hin.1, by omega, fun _ => hl ▸ hin.2⟩

/-- What a command reports to have stored fits in DST_CAP (20_memory.md R65). -/
theorem Update.resLen_le (hi : writesBuf i = true) (hd : (f s).status.done = true) :
    (f s).resLen.toNat ≤ s.dstCap.toNat := by
  cases h with
  | reports hno => simp [hi] at hno
  | fails => cases hd
  | scrambles => cases hd
  | stores _ _ hl hfit => exact hl.trans_le hfit

end

/-! ### A byte beside the destination -/

/-- The state after the host wrote a byte of BUF, with other events of the host to come. -/
def poked (s : State) (x : Nat) (b : Byte) (evs : List HostEvent) : State :=
  withBufHost s (s.buf.writeBytes x [b]) evs

theorem memWrite_poked {s : State} (hwf : s.buf.wf) {x a : Nat} {vs : List Byte} (h : x < a ∨ a + vs.length ≤ x)
    (b : Byte) (evs : List HostEvent) : memWrite (poked s x b evs) a vs = poked (memWrite s a vs) x b evs :=
  congrArg (fun m => withBufHost s m evs) (Memory.writeBytes_comm hwf (ws := [b]) h)

/-- A byte outside the destination range may be written before or after the update. -/
theorem Update.poked {i : Instr} {s : State} {f : State → State} (h : Update s i f) (hwf : s.buf.wf) {x : Nat}
    (hx : writesBuf i = true → x < s.dstAddr.toNat ∨ s.dstAddr.toNat + s.dstCap.toNat ≤ x) (b : Byte)
    (evs : List HostEvent) : f (poked s x b evs) = poked (f s) x b evs := by
  cases h with
  | reports _ hf => rw [Machine.poked, hf.withBufHost, Machine.poked, hf.buf]
  | fails => rfl
  | scrambles e =>
    have hcomm := memWrite_poked hwf (a := s.dstAddr.toNat)
      (vs := (List.range s.dstCap.toNat).map fun k => Config.freeByte (s.fresh + k)) (by simpa using hx rfl) b evs
    exact congrArg (fun u => raiseError (opcode .bitPack) e { u with fresh := s.fresh + s.dstCap.toNat }) hcomm
  | @stores _ out l a hi _ hfit =>
    have hout := hx hi
    exact congrArg (result l a) (memWrite_poked hwf (a := s.dstAddr.toNat) (by omega) b evs)

end Sys2Proof.Machine
end

section
/-! A BUF access of the host beside a running command (20_memory.md R72 to R75): it may take place before or after the
command. -/

namespace Sys2Proof.Machine

open Sys2Proof.Spec

/-- The byte values with a code, as the statements write them (30_encoding.md R97). -/
theorem length_symbols (lens : Table Byte) : (symbols lens).length = symbolCount lens := by
  rw [symbols, symbolCount, coded, Table.support_eq]
  refine congrArg List.length (List.filter_congr fun v _ => ?_)
  simp [Nat.pos_iff_ne_zero, BitVec.toNat_eq]

/-! ### The host's accesses to BUF -/

theorem bufAccess_of_outside {s : State} {addr : Word} (k : State) (ha : addr.toNat ≤ s.params.bufLast.toNat)
    (hf : s.status.busy = true → inFlight s addr.toNat = false) : bufAccess s addr k = .next k := by
  rcases bufAccess_cases s addr k with ⟨hout, _⟩ | ⟨_, hb, hin, _⟩ | ⟨_, _, hk⟩
  · exact absurd (lt_bufBytes_iff.2 ha) (not_lt.2 hout)
  · simp [hf hb] at hin
  · exact hk

theorem step_bufWrite {s : State} {x : Word} {b : Byte} {evs : List HostEvent} (hh : s.host = .bufWrite x b :: evs)
    (ha : x.toNat ≤ s.params.bufLast.toNat) (hf : s.status.busy = true → inFlight s x.toNat = false) :
    step s = .next (poked s x.toNat b evs) :=
  (step_of_host hh).trans (bufAccess_of_outside (s := { s with host := evs }) _ ha hf)

theorem step_bufRead {s : State} {x : Word} {evs : List HostEvent} (hh : s.host = .bufRead x :: evs)
    (ha : x.toNat ≤ s.params.bufLast.toNat) (hf : s.status.busy = true → inFlight s x.toNat = false) :
    step s = .next { s with hostData := (readBuf s x.toNat).setWidth 32, host := evs } :=
  (step_of_host hh).trans (bufAccess_of_outside (s := { s with host := evs }) _ ha hf)

theorem readBuf_poked_self (s : State) (x : Nat) (b : Byte) (evs : List HostEvent) :
    readBuf (poked s x b evs) x = b :=
  readBuf_memWrite_inside s x [b] 0 Nat.zero_lt_one

theorem readBuf_poked_ne (s : State) {x a : Nat} (b : Byte) (evs : List HostEvent) (h : a ≠ x) :
    readBuf (poked s x b evs) a = readBuf s a :=
  readBuf_memWrite_outside (s := s) (v := [b]) (by simp; omega)

/-! ### A byte outside the ranges of the running command -/

/-- The rule of a command keeps the parameters and the host's events, and completes (40_control.md R124, 60_exceptions.md
R210). -/
theorem Ends.completes {i : Instr} {s t : State} (h : Ends i s t) :
    t.params = s.params ∧ t.host = s.host ∧ t.status.busy = false := by
  cases h with
  | succeeds h => cases h <;> exact ⟨rfl, rfl, rfl⟩
  | fails h => cases h <;> exact ⟨rfl, rfl, rfl⟩
  | resets => exact ⟨rfl, rfl, rfl⟩

theorem runAccepted_completes {s t : State} (h : runAccepted s = .next t) :
    t.params = s.params ∧ t.host = s.host ∧ t.status.busy = false := by
  rcases runAccepted_next_cases h with ⟨e, rfl⟩ | ⟨i, _, hends⟩
  · exact ⟨rfl, rfl, rfl⟩
  · exact hends.completes

theorem outside_of_inFlight {s : State} {i : Instr} {x : Nat} (hi : decode s.cmd = .ok i)
    (hx : inFlight s x = false) :
    (readsSrc i = true → x < s.srcAddr.toNat ∨ s.srcAddr.toNat + s.srcLen.toNat ≤ x)
      ∧ (writesBuf i = true → x < s.dstAddr.toNat ∨ s.dstAddr.toNat + s.dstCap.toNat ≤ x) := by
  rw [← Bool.not_eq_true, inFlight_iff] at hx
  constructor <;> intro huse <;> by_contra hin
  · exact hx ⟨i, encode_of_decode hi, .inl ⟨huse, by omega, by omega⟩⟩
  · exact hx ⟨i, encode_of_decode hi, .inr ⟨huse, by omega, by omega⟩⟩

theorem runAccepted_of_error {s : State} {e : DecodeError} (h : decode s.cmd = .error e) :
    runAccepted s = .next (raiseError (opcodeField s.cmd) ⟨.illegalCommand, DecodeError.detail e⟩ s) := by
  rw [runAccepted, h]

theorem runAccepted_of_ok {s : State} {i : Instr} (h : decode s.cmd = .ok i) : runAccepted s = exec i s := by
  rw [runAccepted, h]

/-- A byte outside the command's ranges may be written before the command runs or after (20_memory.md R72, R73). -/
theorem runAccepted_poked {s t : State} (hinv : Inv s) {x : Nat} (hx : inFlight s x = false)
    (h : runAccepted s = .next t) (b : Byte) (evs : List HostEvent) :
    runAccepted (poked s x b evs) = .next (poked t x b evs) := by
  cases hdec : decode s.cmd with
  | error e =>
    cases (runAccepted_of_error hdec).symm.trans h
    exact runAccepted_of_error (s := poked s x b evs) hdec
  | ok i =>
    obtain ⟨hsrc, hdst⟩ := outside_of_inFlight hdec hx
    have hn : s.nsym.toNat = symbolCount s.len := by rw [hinv.nsymAgrees, toNat_ofNat_symbolCount]
    have hsame (hread : readsSrc i = true) : SameSource s (s.buf.writeBytes x [b]) := fun a h1 h2 =>
      Memory.lookup_writeBytes_outside (by
        have hout := hsrc hread
        rw [List.length_singleton]
        omega)
    obtain ⟨f, hf, hs, hp⟩ := exec_actsAlike evs i hn hsame
    cases ((runAccepted_of_ok hdec).trans hs).symm.trans h
    calc runAccepted (poked s x b evs)
        = exec i (poked s x b evs) := runAccepted_of_ok hdec
      _ = .next (f (poked s x b evs)) := hp
      _ = .next (poked (f s) x b evs) := by rw [hf.poked hinv.bufSorted hdst]

/-! ### Steps of a span -/

theorem run_succ_of_step {s t : State} (h : step s = .next t) (k : Nat) :
    Host.Core.run core (k + 1) s = Host.Core.run core k t := by
  simp only [Host.Core.run, show core.step s = .next t from h]

theorem run_two {s t u : State} (h₁ : step s = .next t) (h₂ : step t = .next u) :
    Host.Core.run core 2 s = .next u :=
  (run_succ_of_step h₁ 1).trans (run_succ_of_step h₂ 0)

theorem run_three {s t u v : State} (h₁ : step s = .next t) (h₂ : step t = .next u) (h₃ : step u = .next v) :
    Host.Core.run core 3 s = .next v :=
  (run_succ_of_step h₁ 2).trans (run_two h₂ h₃)

theorem step_issueSpan (s : State) (w : Word) (evs : List HostEvent) :
    step { s with host := .issueSpan w :: evs } = .next (issueOpen { s with host := evs } w) := rfl

theorem step_writeCmd (s : State) (w : Word) (evs : List HostEvent) :
    step { s with host := .regWrite 0x004 4 w :: evs } = issue { s with host := evs } w := by
  rw [step_regWrite_aligned _ _ _ (by decide) (by decide), busWrite_of_cmd w rfl]

theorem issueOpen_discarded {s : State} {w : Word} (hb : s.status.busy = false) (hd : discarded s w = true) :
    issueOpen s w = s := by simp [issueOpen, hb, hd]

theorem issueOpen_accepted {s : State} {w : Word} (hb : s.status.busy = false) (hd : discarded s w = false) :
    issueOpen s w = accept w s := by simp [issueOpen, hb, hd]

theorem issue_discarded {s : State} {w : Word} (hb : s.status.busy = false) (hd : discarded s w = true) :
    issue s w = .next s := by simp [issue, hb, hd]

theorem issue_accepted {s : State} {w : Word} (hb : s.status.busy = false) (hd : discarded s w = false) :
    issue s w = runAccepted (accept w s) := by simp [issue, hb, hd]

theorem step_complete_idle {s : State} {evs : List HostEvent} (hh : s.host = .complete :: evs)
    (hb : s.status.busy = false) : step s = .next { s with host := evs } := by
  rw [step_of_host hh, serve, if_neg (by simp [hb])]

/-- A span in which no register write was dropped ends as its command does. -/
theorem completeSpan_of_noDrop {s : State} (h : s.spanDrop = false) : completeSpan s = runAccepted s := by
  have hs : { s with spanDrop := false } = s := by rw [← h]
  obtain ⟨t, ht⟩ := exists_next_runAccepted s
  simp [completeSpan, hs, ht, settleWbusy, h]

theorem step_complete_running {s : State} {evs : List HostEvent} (hh : s.host = .complete :: evs)
    (hb : s.status.busy = true) (hd : s.spanDrop = false) : step s = runAccepted { s with host := evs } := by
  rw [step_of_host hh, serve, if_pos hb]
  exact completeSpan_of_noDrop hd

section
variable {s : State} {w x : Word} {b : Byte} {rest : List HostEvent}

/-- A discarded word starts no command: the host's byte is all that a span and an atomic command leave. -/
theorem span_discarded (hb : s.status.busy = false) (hx : x.toNat ≤ s.params.bufLast.toNat)
    (hd : discarded s w = true) :
    Host.Core.run core 3 { s with host := .issueSpan w :: .bufWrite x b :: .complete :: rest }
        = .next (poked s x.toNat b rest)
      ∧ Host.Core.run core 2 { s with host := .regWrite 0x004 4 w :: .bufWrite x b :: rest }
        = .next (poked s x.toNat b rest) := by
  have hidle (hbusy : s.status.busy = true) : inFlight s x.toNat = false := by simp [hb] at hbusy
  have hwrite (evs : List HostEvent) :
      step { s with host := .bufWrite x b :: evs } = .next (poked s x.toNat b evs) := step_bufWrite rfl hx hidle
  have hopen (evs : List HostEvent) : step { s with host := .issueSpan w :: evs } = .next { s with host := evs } :=
    (step_issueSpan s w evs).trans (congrArg _ (issueOpen_discarded hb hd))
  have hissue (evs : List HostEvent) :
      step { s with host := .regWrite 0x004 4 w :: evs } = .next { s with host := evs } :=
    (step_writeCmd s w evs).trans (issue_discarded hb hd)
  exact ⟨run_three (hopen _) (hwrite _) (step_complete_idle rfl hb), run_two (hissue _) (hwrite _)⟩

/-- An accepted command, and the host's byte written during its span or after it. -/
theorem span_accepted (hinv : Inv s) (hb : s.status.busy = false) (hx : x.toNat ≤ s.params.bufLast.toNat)
    (hd : discarded s w = false) (hout : inFlight (accept w s) x.toNat = false) {t : State}
    (ht : runAccepted (accept w { s with host := .bufWrite x b :: rest }) = .next t) :
    Host.Core.run core 3 { s with host := .issueSpan w :: .bufWrite x b :: .complete :: rest }
        = .next (poked t x.toNat b rest)
      ∧ Host.Core.run core 2 { s with host := .regWrite 0x004 4 w :: .bufWrite x b :: rest }
        = .next (poked t x.toNat b rest) := by
  obtain ⟨hparams, hhost, hidle⟩ := runAccepted_completes ht
  have hopen (evs : List HostEvent) :
      step { s with host := .issueSpan w :: evs } = .next (accept w { s with host := evs }) :=
    (step_issueSpan s w evs).trans (congrArg _ (issueOpen_accepted hb hd))
  have hissue (evs : List HostEvent) :
      step { s with host := .regWrite 0x004 4 w :: evs } = runAccepted (accept w { s with host := evs }) :=
    (step_writeCmd s w evs).trans (issue_accepted hb hd)
  let running := accept w { s with host := .bufWrite x b :: .complete :: rest }
  have hduring : step running = .next (poked running x.toNat b (.complete :: rest)) :=
    step_bufWrite rfl hx fun _ => hout
  have hcomplete : step (poked running x.toNat b (.complete :: rest)) = .next (poked t x.toNat b rest) :=
    (step_complete_running rfl rfl rfl).trans
      (runAccepted_poked (inv_accept (inv_host hinv (.bufWrite x b :: rest)) hd) hout ht b rest)
  have hafter : step t = .next (poked t x.toNat b rest) :=
    step_bufWrite hhost (by rwa [hparams]) (by simp [hidle])
  exact ⟨run_three (hopen _) hduring hcomplete, run_two ((hissue _).trans ht) hafter⟩

end

end Sys2Proof.Machine
end

section
/-! BUF before the host and the commands (20_memory.md R60 to R75). -/

namespace Sys2Proof.Proofs

open Sys2Proof.Machine Sys2Proof.Spec

/-- Settles O22: a discarded word starts nothing, and an accepted command and a byte outside its ranges may change
places. -/
theorem spanEqualsAtomicCommand : Obligations.SpanEqualsAtomicCommand := by
  intro s w x b rest hinv hb hx hout
  cases hd : discarded s w with
  | true =>
    obtain ⟨hspan, hatomic⟩ := span_discarded hb hx hd
    exact hspan.trans hatomic.symm
  | false =>
    obtain ⟨t, ht⟩ := exists_next_runAccepted (accept w { s with host := .bufWrite x b :: rest })
    obtain ⟨hspan, hatomic⟩ := span_accepted hinv hb hx hd hout ht
    exact hspan.trans hatomic.symm

/-- Settles O14, from the service of a BUF access with BUSY 0. -/
theorem bufAccessReadsBack : Obligations.BufAccessReadsBack := by
  intro s addr b rest hb ha
  have hidle (hbusy : s.status.busy = true) : inFlight s addr.toNat = false := by simp [hb] at hbusy
  exact ⟨⟨_, step_bufWrite rfl ha hidle, rfl, readBuf_poked_self .., fun _ => readBuf_poked_ne s b rest⟩,
    step_bufRead rfl ha hidle⟩

/-- Settles O55: every command is an `Update`, and an update stores in the destination range alone. -/
theorem commandsWriteOnlyDestination : Obligations.CommandsWriteOnlyDestination := by
  intro i s t hn ht
  rw [length_symbols] at hn
  obtain ⟨f, hf, hs, _⟩ := exec_actsAlike (m := s.buf) s.host i hn fun _ _ _ _ => rfl
  cases hs.symm.trans ht
  exact ⟨fun _ => hf.changes, hf.resLen_le⟩

end Sys2Proof.Proofs
end

section
/-! The words that are no command (30_encoding.md R83): what decoding answers for them in terms of the word's fields as
numbers, and the error completion they end in (60_exceptions.md R210). -/

namespace Sys2Proof

/-! ### The fields of a word as numbers (R80) -/

@[simp] theorem toNat_opcodeField (w : Word) : (opcodeField w).toNat = w.toNat % 0x100 := by
  simp [opcodeField]

@[simp] theorem toNat_optField (w : Word) : (optField w).toNat = w.toNat / 0x100 % 0x100 := by
  simp [optField, Nat.shiftRight_eq_div_pow]

@[simp] theorem toNat_reservedField (w : Word) : (reservedField w).toNat = w.toNat / 0x10000 := by
  have hw := w.isLt
  simp only [reservedField, BitVec.extractLsb'_toNat, Nat.shiftRight_eq_div_pow]
  omega

/-! ### Words that decoding rejects -/

/-- The opcode map has no row for an opcode exactly when the opcode is in none of its rows. -/
theorem lookup_opcodeMap_eq_none_iff (b : Byte) :
    opcodeMap.lookup b = none ↔ b.toNat ∉ opcodeMap.map fun row => row.1.toNat := by
  simp only [List.lookup_eq_none_iff, bne_iff_ne, ne_eq, List.mem_map, not_exists, not_and, BitVec.toNat_inj,
    eq_comm (a := b)]

/-- R83, first line. -/
theorem decode_of_unlisted {w : Word} (h : opcodeMap.lookup (opcodeField w) = none) :
    decode w = .error .reservedOpcode := by
  rw [decode, h]

/-- R83, second and third line. -/
theorem decode_of_stray {w : Word} (hlisted : opcodeMap.lookup (opcodeField w) ≠ none)
    (hstray : reservedField w ≠ 0 ∨ optField w ≠ 0 ∧ opcodeField w ≠ 0x50) : decode w = .error .reservedBits := by
  obtain ⟨command, hrow⟩ := Option.ne_none_iff_exists'.1 hlisted
  simp only [decode, hrow]
  by_cases hres : reservedField w = 0
  · rw [if_neg (not_not.2 hres), if_pos (hstray.resolve_left (not_not.2 hres))]
  · rw [if_pos hres]

/-- Stray bits of a word, read off the word as a number. -/
theorem stray_iff (w : Word) :
    (reservedField w ≠ 0 ∨ optField w ≠ 0 ∧ opcodeField w ≠ 0x50)
      ↔ w.toNat / 0x10000 ≠ 0 ∨ w.toNat / 0x100 % 0x100 ≠ 0 ∧ w.toNat % 0x100 ≠ 0x50 := by
  simp [← BitVec.toNat_inj]

end Sys2Proof

namespace Sys2Proof.Machine

open Sys2Proof.Spec

/-! ### The error completion -/

theorem toNat_append_byte {n : Nat} (x : BitVec n) (b : Byte) : (x ++ b).toNat = x.toNat * 0x100 + b.toNat := by
  rw [BitVec.toNat_append, ← Nat.shiftLeft_add_eq_or_of_lt b.isLt, Nat.shiftLeft_eq]

/-- ERRCODE as a number: its three fields in their places (10_state.md R30). -/
theorem errcodeWord_eq_ofNat (o : Byte) (e : CmdError) :
    errcodeWord o e = BitVec.ofNat 32 (e.cls.code.toNat + e.detail.toNat * 0x100 + o.toNat * 0x10000) := by
  apply BitVec.eq_of_toNat_eq
  have ho := o.isLt
  have hd := e.detail.isLt
  have hc := e.cls.code.isLt
  simp only [errcodeWord, toNat_append_byte, BitVec.toNat_ofNat]
  omega

/-- The model's error completion is the one of the statements (60_exceptions.md R210). -/
theorem raiseError_eq_errorState (o : Byte) (e : CmdError) (s : State) :
    raiseError o e s = errorState o.toNat e.cls.code.toNat e.detail.toNat s := by
  rw [raiseError, errorState, errcodeWord_eq_ofNat]
  rfl

/-! ### Issuing a word that is no command -/

/-- A word that acknowledges an error is a command (40_control.md R120). -/
theorem discarded_of_error {s : State} {w : Word} {e : DecodeError} (herr : s.status.err = true)
    (h : decode w = .error e) : discarded s w = true := by
  have hne (i : Instr) : w ≠ encode i := by
    rintro rfl
    rw [decode_encode] at h
    cases h
  simp [discarded, acknowledges, herr, hne]

/-- While ERR is 1 an illegal word is discarded as any other (30_encoding.md R83, 40_control.md R120). -/
theorem step_illegal_discarded {s : State} {w : Word} {e : DecodeError} (rest : List HostEvent)
    (hb : s.status.busy = false) (herr : s.status.err = true) (h : decode w = .error e) :
    step { s with host := .regWrite 0x004 4 w :: rest } = .next { s with host := rest } :=
  (step_writeCmd s w rest).trans (issue_discarded hb (discarded_of_error herr h))

/-- With BUSY 0 and ERR 0 an illegal word is accepted and ends as ILLEGAL_COMMAND (30_encoding.md R83). -/
theorem step_illegal_raises {s : State} {w : Word} {e : DecodeError} (rest : List HostEvent)
    (hb : s.status.busy = false) (herr : s.status.err = false) (h : decode w = .error e) :
    step { s with host := .regWrite 0x004 4 w :: rest }
      = .next (errorState (w.toNat % 0x100) 7 (DecodeError.detail e).toNat
          { s with cmd := w, spanDrop := false, host := rest }) := by
  have haccepted : discarded { s with host := rest } w = false := by simp [discarded, herr]
  calc step { s with host := .regWrite 0x004 4 w :: rest }
      = runAccepted (accept w { s with host := rest }) := (step_writeCmd s w rest).trans (issue_accepted hb haccepted)
    _ = .next (raiseError (opcodeField w) ⟨.illegalCommand, DecodeError.detail e⟩ (accept w { s with host := rest })) :=
        runAccepted_of_error h
    _ = _ := by
        rw [raiseError_eq_errorState, toNat_opcodeField]
        rfl

end Sys2Proof.Machine
end

section
/-! The encoding of the commands (30_encoding.md R80 to R84). -/

namespace Sys2Proof.Proofs

open Sys2Proof.Machine Sys2Proof.Spec

/-- Settles O16: a word is its three fields, and every row of the opcode map is the command it names. -/
theorem decodeExactlyEncode : Obligations.DecodeExactlyEncode := fun _ _ => decode_eq_ok_iff

/-- Settles O18: decoding rejects the word, and a rejected word is discarded or completes with its error. -/
theorem illegalWordsRaise : Obligations.IllegalWordsRaise := by
  intro s w rest hb opc listed stray after
  have hunlisted : opcodeMap.lookup (opcodeField w) = none ↔ ¬ listed := by
    rw [lookup_opcodeMap_eq_none_iff, toNat_opcodeField]
    rfl
  have hopcode (h : ¬ listed) : decode w = .error .reservedOpcode := decode_of_unlisted (hunlisted.2 h)
  have hbits (h : listed) (hs : stray) : decode w = .error .reservedBits :=
    decode_of_stray (fun hnone => hunlisted.1 hnone h) ((stray_iff w).2 hs)
  refine ⟨fun herr h => ?_, fun herr h hs => ?_, fun herr h => ?_⟩
  · exact step_illegal_raises (e := .reservedOpcode) rest hb herr (hopcode h)
  · exact step_illegal_raises (e := .reservedBits) rest hb herr (hbits h hs)
  · by_cases hl : listed
    · exact step_illegal_discarded rest hb herr (hbits hl (h.resolve_left (not_not.2 hl)))
    · exact step_illegal_discarded rest hb herr (hopcode hl)

/-- Settles O17: each word is the encoding of its command. -/
theorem tableWordsDecode : Obligations.TableWordsDecode :=
  ⟨decode_encode .nop, decode_encode .crcUpdate, decode_encode .bwtInv, decode_encode .hufWtable,
    decode_encode .bitUnpack, decode_encode (.ctrFrame 0x05)⟩

end Sys2Proof.Proofs
end

section
/-! What the service of a command word does (40_control.md R120 to R122), and what the rule of a command leaves unchanged,
register by register (R128). -/

namespace Sys2Proof.Machine

open Sys2Proof.Spec

/-! ### Acceptance and discarding -/

/-- The two words that acknowledge an error, written out (40_control.md R120). -/
theorem acknowledges_iff (w : Word) : acknowledges w = true ↔ w = 0x00000001 ∨ w = 0x00000002 := by
  simp only [acknowledges, Bool.or_eq_true, beq_iff_eq, show encode .errClear = 0x00000001 from rfl,
    show encode .sreset = 0x00000002 from rfl]

theorem discarded_eq_false {s : State} {w : Word} (h : s.status.err = false ∨ w = 0x00000001 ∨ w = 0x00000002) :
    discarded s w = false := by
  rw [← acknowledges_iff] at h
  rcases h with herr | hack
  · simp [discarded, herr]
  · simp [discarded, hack]

theorem discarded_eq_true {s : State} {w : Word} (herr : s.status.err = true) (h1 : w ≠ 0x00000001)
    (h2 : w ≠ 0x00000002) : discarded s w = true := by
  have hack : ¬ acknowledges w = true := (acknowledges_iff w).not.2 (not_or.2 ⟨h1, h2⟩)
  simp [discarded, herr, hack]

/-- A host write of an accepted command's word runs the command from the accepted state (40_control.md R121). -/
theorem step_command {s : State} {w : Word} {i : Instr} (rest : List HostEvent) (hb : s.status.busy = false)
    (hacc : s.status.err = false ∨ w = 0x00000001 ∨ w = 0x00000002) (hdec : decode w = .ok i) :
    step { s with host := .regWrite 0x004 4 w :: rest } = exec i (accept w { s with host := rest }) :=
  calc step { s with host := .regWrite 0x004 4 w :: rest }
      = issue { s with host := rest } w := step_writeCmd s w rest
    _ = runAccepted (accept w { s with host := rest }) := issue_accepted hb (discarded_eq_false hacc)
    _ = exec i (accept w { s with host := rest }) := runAccepted_of_ok hdec

/-! ### The frame of a command's rule -/

/-- What the rule of the command `i` leaves unchanged up to its completion: `u` is the state it completes from. -/
structure RuleFrame (i : Instr) (s u : State) : Prop where
  surroundings : u.params = s.params ∧ u.host = s.host ∧ u.hostData = s.hostData ∧ u.bufEpoch = s.bufEpoch
  operands : u.cmd = s.cmd ∧ u.srcAddr = s.srcAddr ∧ u.srcLen = s.srcLen ∧ u.dstAddr = s.dstAddr
    ∧ u.dstCap = s.dstCap ∧ u.aux = s.aux
  crcState : i ≠ .crcInit → i ≠ .crcUpdate → u.crcState = s.crcState
  freq : i ≠ .hufCount → u.freq = s.freq
  tables : i ≠ .hufBuild → i ≠ .hufRtable →
    u.len = s.len ∧ u.code = s.code ∧ u.nsym = s.nsym ∧ u.maxlen = s.maxlen
  located : i ≠ .ctrUnframe → u.resAddr = s.resAddr ∧ u.resFlags = s.resFlags ∧ u.resPi = s.resPi
  warn : i ≠ .ctrUnframe → u.status.warn = s.status.warn
  errorBits : i ≠ .errClear → u.status.wbusy = s.status.wbusy ∧ u.errcode = s.errcode
  buf : writesBuf i = false → u.buf = s.buf

theorem RuleFrame.refl (i : Instr) (s : State) : RuleFrame i s s where
  surroundings := ⟨rfl, rfl, rfl, rfl⟩
  operands := ⟨rfl, rfl, rfl, rfl, rfl, rfl⟩
  crcState _ _ := rfl
  freq _ := rfl
  tables _ _ := ⟨rfl, rfl, rfl, rfl⟩
  located _ := ⟨rfl, rfl, rfl⟩
  warn _ := rfl
  errorBits _ := ⟨rfl, rfl⟩
  buf _ := rfl

/-- HUF.BUILD and HUF.RTABLE install a table and touch nothing else. -/
theorem RuleFrame.loadTable {i : Instr} (hi : i = .hufBuild ∨ i = .hufRtable) (lens : Table Byte) (s : State) :
    RuleFrame i s (loadTable lens s) :=
  { RuleFrame.refl i s with tables := fun hbuild hread => (hi.elim hbuild hread).elim }

/-- A command with a destination range may change BUF. -/
theorem RuleFrame.memory {i : Instr} (hi : usesDst i = true) (s : State) (m : Memory) (n : Nat) :
    RuleFrame i s { s with buf := m, fresh := n } :=
  { RuleFrame.refl i s with buf := fun hkeeps => by simp [← usesDst_eq_writesBuf, hi] at hkeeps }

/-- Each way of succeeding touches only what the command's rule names (40_control.md R128). -/
theorem Works.frame {i : Instr} {s u : State} (h : Works i s u) : RuleFrame i s u := by
  cases h with
  | nop => exact .refl .nop s
  | errClear => exact { RuleFrame.refl .errClear s with errorBits := fun hne => absurd rfl hne }
  | crcInit => exact { RuleFrame.refl .crcInit s with crcState := fun hne _ => absurd rfl hne }
  | crcUpdate => exact { RuleFrame.refl .crcUpdate s with crcState := fun _ hne => absurd rfl hne }
  | counts => exact { RuleFrame.refl .hufCount s with freq := fun hne => absurd rfl hne }
  | loads _ hi _ => exact .loadTable hi _ s
  | stores hi _ _ => exact .memory hi s _ s.fresh
  | locates =>
    exact { RuleFrame.refl .ctrUnframe s with
      located := fun hne => absurd rfl hne
      warn := fun hne => absurd rfl hne }

/-- Each way of failing touches, before its error completion, only what the command's rule names (60_exceptions.md
R211). -/
theorem Fails.frame {i : Instr} {s u : State} (h : Fails i s u) : RuleFrame i s u := by
  cases h with
  | unchanged => exact .refl i s
  | empties => exact .loadTable (.inr rfl) _ s
  | scrambles => exact .memory rfl s _ _

/-- NOP and ERR.CLEAR report the results that stand (40_control.md R125, R126). -/
theorem exec_keeps_results {i : Instr} {s t : State} (hi : i = .nop ∨ i = .errClear) (h : exec i s = .next t) :
    t.resLen = s.resLen ∧ t.resAux = s.resAux := by
  rcases hi with rfl | rfl <;> cases h <;> exact ⟨rfl, rfl⟩

/-! ### The registers after a reset -/

/-- STATUS reads 0 after a hardware reset (10_state.md R39). -/
theorem toWord_idle : (Status.mk false false false false false).shown.toWord = 0 := by decide

/-- STATUS reads 2 where only DONE is set (40_control.md R127). -/
theorem toWord_done : (Status.mk false true false false false).shown.toWord = 2 := by decide

theorem readReg_cmd_status (s : State) (w : Word) (b : Status) {r : Reg} (hc : r ≠ .cmd) (hs : r ≠ .status) :
    readReg { s with cmd := w, status := b } r = readReg s r := by
  cases r
  case cmd => exact absurd rfl hc
  case status => exact absurd rfl hs
  all_goals rfl

/-- The reset of the registers puts every register at its reset column (10_state.md R39). -/
theorem readReg_resetRegisters (s : State) (r : Reg) : readReg (resetRegisters s) r = resetColumn s.params r := by
  cases r
  case freq v => exact Table.get_fill 0 v
  case len v | codeLo v | codeHi v => simp [readReg, resetColumn]
  case status => exact toWord_idle
  case crcValue => exact BitVec.xor_self
  all_goals rfl

end Sys2Proof.Machine
end

section
/-! Acceptance, the control commands and the frame of every command (40_control.md R120 to R128). -/

namespace Sys2Proof.Proofs

open Sys2Proof.Machine Sys2Proof.Spec

/-- Settles O56: the rule keeps what it does not name, and the completion touches the results, STATUS and, on an error, the
registers that R210 names. -/
theorem commandRegisterFrame : Obligations.CommandRegisterFrame := by
  intro i s t ht
  have hresults (hi : i = .nop ∨ i = .errClear) := exec_keeps_results hi ht
  cases ends_of_exec ht with
  | succeeds h =>
    obtain ⟨hout, hops, hcrc, hfreq, htables, hlocated, hwarn, herr, hbuf⟩ := h.frame
    exact ⟨hout, fun _ => hops, fun _ => hcrc, fun _ => hfreq, fun _ => htables, fun _ hne _ => hlocated hne,
      fun _ hne => ⟨(herr hne).1, fun _ => (herr hne).2⟩, fun _ hne _ => hwarn hne, hresults, hbuf⟩
  | fails h e =>
    obtain ⟨hout, hops, hcrc, hfreq, htables, _, _, herr, hbuf⟩ := h.frame
    have hfailed {u : State} : ¬ (raiseError (opcode i) e u).status.done = true := by simp
    exact ⟨hout, fun _ => hops, fun _ => hcrc, fun _ => hfreq, fun _ => htables, fun _ _ hdone => absurd hdone hfailed,
      fun _ hne => ⟨(herr hne).1, fun hdone => absurd hdone hfailed⟩, fun _ _ hdone => absurd hdone hfailed, hresults,
      hbuf⟩
  | resets =>
    have habsurd {P : Prop} (hne : Instr.sreset ≠ .sreset) : P := absurd rfl hne
    exact ⟨⟨rfl, rfl, rfl, rfl⟩, habsurd, habsurd, habsurd, habsurd, habsurd, habsurd, habsurd, hresults, fun _ => rfl⟩

/-- Settles O19. -/
theorem stepRunsDecodedCommand : Obligations.StepRunsDecodedCommand :=
  fun _ _ _ rest hb hacc hdec => step_command rest hb hacc hdec

/-- Settles O20: the word is discarded by either event that offers it. -/
theorem discardedWordChangesNothing : Obligations.DiscardedWordChangesNothing := by
  intro s w rest hb herr h1 h2
  have hd : discarded { s with host := rest } w = true := discarded_eq_true herr h1 h2
  exact ⟨(step_writeCmd s w rest).trans (issue_discarded hb hd),
    (step_issueSpan s w rest).trans (congrArg _ (issueOpen_discarded hb hd))⟩

/-- Settles O23. -/
theorem nopRule : Obligations.NopRule := by
  intro s rest
  refine ⟨rfl, fun hb herr => ?_⟩
  calc step { s with host := .regWrite 0x004 4 0x00000000 :: rest }
      = exec .nop (accept 0x00000000 { s with host := rest }) :=
        step_command rest hb (.inl herr) (decode_encode .nop)
    _ = .next { s with
          host := rest, cmd := 0, spanDrop := false
          status := ⟨false, true, s.status.err, false, s.status.wbusy⟩ } := rfl
    _ = _ := by rw [herr]

/-- Settles O24. -/
theorem errClearRule : Obligations.ErrClearRule :=
  fun _ rest => ⟨rfl, fun hb => step_command rest hb (.inr (.inl rfl)) (decode_encode .errClear)⟩

/-- Settles O25: the registers read as after the reset of the registers but for CMD and STATUS, and acceptance leaves no
trace that the reset keeps. -/
theorem sresetRule : Obligations.SresetRule := by
  intro s
  refine ⟨_, rfl, fun r => ?_, rfl, rfl, rfl, rfl, rfl, fun rest hb =>
    step_command rest hb (.inr (.inr rfl)) (decode_encode .sreset)⟩
  by_cases hr : r = .cmd ∨ r = .status
  · rw [if_pos hr]
    rcases hr with rfl | rfl
    · rfl
    · exact toWord_done
  · rw [if_neg hr, readReg_cmd_status _ _ _ (not_or.1 hr).1 (not_or.1 hr).2, readReg_resetRegisters]

end Sys2Proof.Proofs
end

section
/-! The checksum commands (41_crc.md R130 to R133): what CRC.UPDATE ends in, and its fold over consecutive ranges of BUF. -/

namespace Sys2Proof.Machine

open Sys2Proof.Spec

/-! ### The check of the source range -/

/-- The bounds check of the model is the one of the statements (20_memory.md R63). -/
theorem inBounds_iff_inBuf {p : Params} {a n : Word} : inBounds p a n = true ↔ InBuf p a n := inBounds_iff

theorem firstError_checkSrc_of_inBuf {s : State} (h : InBuf s.params s.srcAddr s.srcLen) :
    firstError [checkSrc s] = none := by
  simp [checkSrc, inBounds_iff_inBuf.2 h]

theorem firstError_checkSrc_of_not_inBuf {s : State} (h : ¬ InBuf s.params s.srcAddr s.srcLen) :
    firstError [checkSrc s] = some ⟨.bounds, 1⟩ := by
  have hout : inBounds s.params s.srcAddr s.srcLen = false := Bool.eq_false_iff.2 (inBounds_iff_inBuf.not.2 h)
  simp [checkSrc, hout]

/-! ### CRC.UPDATE -/

/-- The state in which CRC.UPDATE ends when its source range lies in BUF (41_crc.md R132). -/
def crcUpdated (s : State) : State :=
  { s with
    crcState := crcFold s.crcState (memRead s s.srcAddr.toNat s.srcLen.toNat)
    resLen := s.srcLen
    resAux := crcFold s.crcState (memRead s s.srcAddr.toNat s.srcLen.toNat) ^^^ 0xFFFFFFFF
    status := doneStatus s.status }

theorem exec_crcUpdate_of_inBuf {s : State} (h : InBuf s.params s.srcAddr s.srcLen) :
    exec .crcUpdate s = .next (crcUpdated s) := by
  dsimp only [exec, execCrcUpdate]
  rw [firstError_checkSrc_of_inBuf h]
  rfl

theorem exec_crcUpdate_of_not_inBuf {s : State} (h : ¬ InBuf s.params s.srcAddr s.srcLen) :
    exec .crcUpdate s = .next (errorState 0x11 8 1 s) :=
  calc exec .crcUpdate s
      = .next (raiseError (opcode .crcUpdate) ⟨.bounds, 1⟩ s) := by
        dsimp only [exec, execCrcUpdate]
        rw [firstError_checkSrc_of_not_inBuf h]
    _ = .next (errorState 0x11 8 1 s) := congrArg _ (raiseError_eq_errorState ..)

/-! ### Consecutive ranges -/

/-- A read of two consecutive ranges is the first read followed by the second (00_scope.md R14). -/
theorem memRead_add (s : State) (a n m : Nat) : memRead s a (n + m) = memRead s a n ++ memRead s (a + n) m := by
  simp [memRead, List.range_add, Function.comp_def, Nat.add_assoc]

/-- Folding a range and then the range after it folds both (41_crc.md R133). -/
theorem crcFold_memRead_add (c : Word) (s : State) (a n m : Nat) :
    crcFold (crcFold c (memRead s a n)) (memRead s (a + n) m) = crcFold c (memRead s a (n + m)) := by
  rw [memRead_add, crcFold_append]

end Sys2Proof.Machine
end

section
/-! The checksum (41_crc.md R130 to R133). -/

namespace Sys2Proof.Proofs

open Sys2Proof.Machine Sys2Proof.Spec

/-- Settles O29: the second update reads the BUF that the first one read and goes on from the CRC_STATE it left, so the
two folds are one over both ranges. -/
theorem crcUpdatesStream : Obligations.CrcUpdatesStream := by
  intro s n m hword hbuf
  have toNat_eq {k : Nat} (hk : k ≤ s.srcAddr.toNat + n + m) : (BitVec.ofNat 32 k).toNat = k :=
    Nat.mod_eq_of_lt (by omega)
  have hn := toNat_eq (k := n) (by omega)
  have hm := toNat_eq (k := m) (by omega)
  have hnm := toNat_eq (k := n + m) (by omega)
  have ha := toNat_eq (k := s.srcAddr.toNat + n) (by omega)
  have hfirst : InBuf s.params s.srcAddr (BitVec.ofNat 32 n) := .inr (by omega)
  have hsecond : InBuf s.params (BitVec.ofNat 32 (s.srcAddr.toNat + n)) (BitVec.ofNat 32 m) := .inr (by omega)
  have hwhole : InBuf s.params s.srcAddr (BitVec.ofNat 32 (n + m)) := .inr (by omega)
  have hfold : crcFold (crcFold s.crcState (memRead s s.srcAddr.toNat (BitVec.ofNat 32 n).toNat))
        (memRead s (BitVec.ofNat 32 (s.srcAddr.toNat + n)).toNat (BitVec.ofNat 32 m).toNat)
      = crcFold s.crcState (memRead s s.srcAddr.toNat (BitVec.ofNat 32 (n + m)).toNat) := by
    rw [hn, hm, hnm, ha, crcFold_memRead_add]
  exact ⟨_, _, _, exec_crcUpdate_of_inBuf hfirst, exec_crcUpdate_of_inBuf hsecond, exec_crcUpdate_of_inBuf hwhole, hfold,
    congrArg (· ^^^ 0xFFFFFFFF) hfold⟩

/-- Settles O26: the initial CRC_STATE is its own mask, so CRC_VALUE is 0. -/
theorem crcInitRule : Obligations.CrcInitRule := by
  intro s
  have hvalue : crcValue { s with crcState := crcMask } = 0 := BitVec.xor_self
  dsimp only [exec, execCrcInit]
  rw [hvalue]
  rfl

/-- Settles O27. -/
theorem crcUpdateRule : Obligations.CrcUpdateRule :=
  fun _ => ⟨exec_crcUpdate_of_inBuf, exec_crcUpdate_of_not_inBuf⟩

/-- Settles O28. -/
theorem crcCheckValues : Obligations.CrcCheckValues :=
  ⟨by decide +kernel, BitVec.xor_self, by decide +kernel⟩

end Sys2Proof.Proofs
end

section
/-! The LF-mapping (42_bwt.md R142, R143): the model's is the one of the statements, it is strictly rising in the stable
order of the rows by their byte, and so it permutes the rows. -/

namespace Sys2Proof.Machine

open Sys2Proof.Spec

/-- A map of the numbers below `n` into themselves that takes no value twice permutes them. -/
theorem map_range_perm {n : Nat} {f : Nat → Nat} (hlt : ∀ i < n, f i < n)
    (hinj : ∀ i < n, ∀ j < n, f i = f j → i = j) : ((List.range n).map f).Perm (List.range n) := by
  have hnodup : ((List.range n).map f).Nodup :=
    List.nodup_range.map_on fun i hi j hj => hinj i (List.mem_range.1 hi) j (List.mem_range.1 hj)
  have hsub : (List.range n).map f ⊆ List.range n := by simpa [List.subset_def] using hlt
  exact (List.subperm_of_subset hnodup hsub).perm_of_length_le (by simp)

/-- The model's LF-mapping is the one of the statements. -/
theorem lf_eq_lfMap (L : List Byte) : lf L = lfMap L := by
  funext i
  simp [lf, lfMap, smallerCount, List.countP_eq_length_filter, List.count, Bool.beq_eq_decide_eq]

/-! ### The block of rows of one byte value -/

/-- The block of a byte value ends before the block of a larger one begins. -/
theorem smallerCount_add_count_le (L : List Byte) {v w : Byte} (h : v.toNat < w.toNat) :
    smallerCount L v + L.count v ≤ smallerCount L w := by
  induction L with
  | nil => exact le_rfl
  | cons b L ih =>
    simp only [smallerCount, List.countP_cons, List.count_cons, decide_eq_true_eq, beq_iff_eq] at ih ⊢
    rcases lt_trichotomy b.toNat v.toNat with hb | hb | hb
    · have hne : b ≠ v := fun hbv => hb.ne (congrArg _ hbv)
      rw [if_pos hb, if_neg hne, if_pos (hb.trans h)]
      omega
    · rw [if_neg hb.not_lt, if_pos (BitVec.eq_of_toNat_eq hb), if_pos (hb ▸ h)]
      omega
    · have hne : b ≠ v := fun hbv => hb.ne' (congrArg _ hbv)
      rw [if_neg hb.not_gt, if_neg hne]
      omega

/-- Each block lies within the rows. -/
theorem smallerCount_add_count_le_length (L : List Byte) (v : Byte) :
    smallerCount L v + L.count v ≤ L.length := by
  induction L with
  | nil => exact le_rfl
  | cons b L ih =>
    simp only [smallerCount, List.countP_cons, List.count_cons, List.length_cons, decide_eq_true_eq, beq_iff_eq] at ih ⊢
    by_cases hb : b = v
    · rw [hb, if_neg (lt_irrefl _), if_pos rfl]
      omega
    · rw [if_neg hb]
      split <;> omega

/-- A row counts among the equal rows above a later row. -/
theorem count_take_lt {L : List Byte} {i j : Nat} (hi : i < L.length) (hij : i < j) :
    (L.take i).count (L.getD i 0) < (L.take j).count (L.getD i 0) := by
  have hget : L.getD i 0 = L[i] := List.getD_eq_getElem _ _ hi
  calc (L.take i).count (L.getD i 0) < (L.take (i + 1)).count (L.getD i 0) := by
        rw [hget, List.take_add_one, List.getElem?_eq_getElem hi, List.count_append]
        simp
    _ ≤ (L.take j).count (L.getD i 0) := (List.take_sublist_take_left hij).count_le _

/-- The LF value of a row lies in the block of its byte value. -/
theorem lfMap_lt_block_end {L : List Byte} {i : Nat} (hi : i < L.length) :
    lfMap L i < smallerCount L (L.getD i 0) + L.count (L.getD i 0) := by
  have hcount := count_take_lt hi hi
  rw [List.take_length] at hcount
  exact Nat.add_lt_add_left hcount _

theorem lfMap_lt {L : List Byte} {i : Nat} (hi : i < L.length) : lfMap L i < L.length :=
  (lfMap_lt_block_end hi).trans_le (smallerCount_add_count_le_length L _)

/-! ### The order of the LF values -/

theorem lfMap_lt_of_byte_lt {L : List Byte} {i j : Nat} (hi : i < L.length)
    (h : (L.getD i 0).toNat < (L.getD j 0).toNat) : lfMap L i < lfMap L j :=
  calc lfMap L i < smallerCount L (L.getD i 0) + L.count (L.getD i 0) := lfMap_lt_block_end hi
    _ ≤ smallerCount L (L.getD j 0) := smallerCount_add_count_le L h
    _ ≤ lfMap L j := Nat.le_add_right ..

theorem lfMap_lt_of_byte_eq {L : List Byte} {i j : Nat} (hi : i < L.length) (h : L.getD i 0 = L.getD j 0)
    (hij : i < j) : lfMap L i < lfMap L j := by
  rw [lfMap, lfMap, ← h]
  exact Nat.add_lt_add_left (count_take_lt hi hij) _

/-- Rows stand in the order of their LF values when they are ordered by byte, equal bytes by row. -/
theorem rows_of_lfMap_le {L : List Byte} {i j : Nat} (hj : j < L.length) (h : lfMap L i ≤ lfMap L j) :
    (L.getD i 0).toNat < (L.getD j 0).toNat ∨ (L.getD i 0).toNat = (L.getD j 0).toNat ∧ i ≤ j := by
  rcases lt_trichotomy (L.getD i 0).toNat (L.getD j 0).toNat with hb | hb | hb
  · exact .inl hb
  · have hbyte := BitVec.eq_of_toNat_eq hb.symm
    exact .inr ⟨hb, not_lt.1 fun hji => h.not_gt (lfMap_lt_of_byte_eq hj hbyte hji)⟩
  · exact absurd h (lfMap_lt_of_byte_lt hj hb).not_ge

/-- Different rows have different LF values. -/
theorem lfMap_inj {L : List Byte} {i j : Nat} (hi : i < L.length) (hj : j < L.length) (h : lfMap L i = lfMap L j) :
    i = j := by
  have hij := rows_of_lfMap_le hj h.le
  have hji := rows_of_lfMap_le hi h.ge
  omega

/-- The LF-mapping permutes the rows (42_bwt.md R143). -/
theorem lfMap_perm (L : List Byte) : ((List.range L.length).map (lfMap L)).Perm (List.range L.length) :=
  map_range_perm (fun _ => lfMap_lt) fun _ hi _ hj => lfMap_inj hi hj

end Sys2Proof.Machine
end

section
/-! The backward walk of BWT.INV (42_bwt.md R142): the rows it visits are the iterates of the LF-mapping. -/

namespace Sys2Proof.Machine

/-- The iterates of the LF-mapping stay among the rows. -/
theorem lfMap_iterate_lt {L : List Byte} {i : Nat} (hi : i < L.length) (k : Nat) : (lfMap L)^[k] i < L.length := by
  induction k with
  | zero => exact hi
  | succ k ih =>
    rw [Function.iterate_succ_apply']
    exact lfMap_lt ih

/-- A walk along a list that holds the values of `f` visits the iterates of `f`. -/
theorem lfWalk_eq_iterate (L : List Byte) {lf : List Nat} {f : Nat → Nat} (n i : Nat) (out : List Byte)
    (h : ∀ k < n, lf.getD (f^[k] i) 0 = f (f^[k] i)) :
    lfWalk L lf n i out = (f^[n] i, ((List.range n).map fun k => L.getD (f^[k] i) 0).reverse ++ out) := by
  induction n generalizing i out with
  | zero => rfl
  | succ n ih =>
    have hfirst : lf.getD i 0 = f i := h 0 n.succ_pos
    rw [lfWalk, hfirst, ih (f i) _ fun k hk => h (k + 1) (Nat.succ_lt_succ hk), List.range_succ_eq_map]
    simp [Function.comp_def]

/-- The walk of BWT.INV from a row, or over the empty block (42_bwt.md R142). -/
theorem bwtInverse_eq_iterate {L : List Byte} {p : Nat} (hp : p < L.length ∨ L.length = 0) :
    bwtInverse L p = ((lfMap L)^[L.length] p,
      ((List.range L.length).map fun k => L.getD ((lfMap L)^[k] p) 0).reverse) := by
  rw [bwtInverse, lfWalk_eq_iterate (f := lfMap L), List.append_nil]
  intro k hk
  have hrow : (lfMap L)^[k] p < L.length := lfMap_iterate_lt (hp.resolve_right (by omega)) k
  simp [List.getD, List.getElem?_map, List.getElem?_range hrow]

end Sys2Proof.Machine
end

section
/-! The rotation order (42_bwt.md R140): the model's comparison is the order of the rotations as lists of numbers, ties
by offset, and so is the order of the statements; the sorted rotations are strictly rising in it. -/

namespace Sys2Proof.Machine

open Sys2Proof.Spec

/-! ### The order as an order of keys -/

/-- The rotation at an offset as a sequence of numbers. -/
def rotNumbers (S : List Byte) (i : Nat) : List Nat := (rotation S i).map BitVec.toNat

/-- The key by which the rotation order sorts an offset. -/
def rotKey (S : List Byte) (i : Nat) : List Nat ×ₗ Nat := toLex (rotNumbers S i, i)

/-- The model's comparison decides the order of the sequences as lists of numbers (00_scope.md R13). -/
theorem lexCompare_cases (xs ys : List Byte) :
    lexCompare xs ys = .lt ∧ xs.map BitVec.toNat < ys.map BitVec.toNat
      ∨ lexCompare xs ys = .eq ∧ xs.map BitVec.toNat = ys.map BitVec.toNat
      ∨ lexCompare xs ys = .gt ∧ ys.map BitVec.toNat < xs.map BitVec.toNat := by
  induction xs generalizing ys with
  | nil => cases ys <;> simp [lexCompare]
  | cons x xs ih =>
    cases ys with
    | nil => simp [lexCompare]
    | cons y ys =>
      simp only [lexCompare, List.map_cons, List.cons_lt_cons_iff, List.cons.injEq]
      rcases lt_trichotomy x.toNat y.toNat with h | h | h
      · simp [h]
      · simpa [h] using ih ys
      · simp [h, h.not_gt]

theorem rotLe_iff (S : List Byte) (i j : Nat) : rotLe S i j = true ↔ rotKey S i ≤ rotKey S j := by
  rw [rotKey, rotKey, Prod.Lex.toLex_le_toLex, rotLe]
  rcases lexCompare_cases (rotation S i) (rotation S j) with ⟨hc, h⟩ | ⟨hc, h⟩ | ⟨hc, h⟩
  · simp [hc, rotNumbers, h]
  · simp [hc, rotNumbers, h]
  · simp [hc, rotNumbers, lt_asymm h, h.ne']

/-- The sorted rotations rise strictly in the rotation order. -/
theorem sortedRotations_pairwise (S : List Byte) :
    (sortedRotations S).Pairwise fun i j => rotKey S i < rotKey S j := by
  have hle : (sortedRotations S).Pairwise fun i j => rotLe S i j = true :=
    haveI : Std.Total fun i j => rotLe S i j = true := ⟨fun i j => by simpa only [rotLe_iff] using le_total _ _⟩
    haveI : IsTrans Nat fun i j => rotLe S i j = true := ⟨fun i j k => by simpa only [rotLe_iff] using le_trans⟩
    List.pairwise_insertionSort _ _
  have hnodup : (sortedRotations S).Nodup := (sortedRotations_perm S).nodup_iff.2 List.nodup_range
  refine (hle.and hnodup).imp fun {i j} ⟨h, hne⟩ => ((rotLe_iff S i j).1 h).lt_of_ne fun hkey => hne ?_
  exact congrArg (fun k => (ofLex k).2) hkey

/-! ### The order of the statements -/

@[simp] theorem length_rotation (S : List Byte) (i : Nat) : (rotation S i).length = S.length := by
  simp [rotation]
  omega

/-- A rotation is the library's. -/
theorem rotation_eq_rotate {S : List Byte} {i : Nat} (hi : i ≤ S.length) : rotation S i = S.rotate i :=
  (List.rotate_eq_drop_append_take hi).symm

theorem getElem_rotNumbers {S : List Byte} {i m : Nat} (hi : i < S.length) (hm : m < (rotNumbers S i).length) :
    (rotNumbers S i)[m] = (S.getD ((i + m) % S.length) 0).toNat := by
  have hmod : (i + m) % S.length < S.length := Nat.mod_lt _ (by omega)
  rw [List.getD_eq_getElem _ _ hmod]
  simp [rotNumbers, rotation_eq_rotate hi.le, List.getElem_rotate, Nat.add_comm m i]

@[simp] theorem length_rotNumbers (S : List Byte) (i : Nat) : (rotNumbers S i).length = S.length := by
  simp [rotNumbers]

theorem rotLess_of_lt {S : List Byte} {i j : Nat} (hi : i < S.length) (hj : j < S.length)
    (h : rotNumbers S i < rotNumbers S j) : RotLess S i j := by
  rcases List.lt_iff_exists.1 h with ⟨_, hlen⟩ | ⟨k, hki, hkj, hbelow, hk⟩
  · simp at hlen
  · rw [getElem_rotNumbers hi, getElem_rotNumbers hj] at hk
    refine ⟨k, by simpa using hki, fun m hm => BitVec.eq_of_toNat_eq ?_, hk⟩
    simpa only [getElem_rotNumbers hi, getElem_rotNumbers hj] using hbelow m hm

theorem rotBefore_of_rotKey_lt {S : List Byte} {i j : Nat} (hi : i < S.length) (hj : j < S.length)
    (h : rotKey S i < rotKey S j) : RotBefore S i j := by
  rcases Prod.Lex.toLex_lt_toLex.1 h with hlt | ⟨heq, hij⟩
  · exact .inl (rotLess_of_lt hi hj hlt)
  · refine .inr ⟨fun m hm => BitVec.eq_of_toNat_eq ?_, hij⟩
    have hget := List.getElem_of_eq heq (i := m) (by simpa using hm)
    simpa only [getElem_rotNumbers hi, getElem_rotNumbers hj] using hget

theorem mem_sortedRotations {S : List Byte} {i : Nat} : i ∈ sortedRotations S ↔ i < S.length := by
  rw [(sortedRotations_perm S).mem_iff, List.mem_range]

/-- The model's order of the rotations is sorted as the rule says (42_bwt.md R140). -/
theorem sortedRotations_rotBefore (S : List Byte) : (sortedRotations S).Pairwise (RotBefore S) :=
  (sortedRotations_pairwise S).imp_of_mem fun hi hj =>
    rotBefore_of_rotKey_lt (mem_sortedRotations.1 hi) (mem_sortedRotations.1 hj)

/-! ### The primary index -/

theorem bwtPrimaryIndex_nil : bwtPrimaryIndex [] = 0 := rfl

theorem getElem?_bwtPrimaryIndex {S : List Byte} (h : 0 < S.length) :
    (sortedRotations S)[bwtPrimaryIndex S]? = some 0 :=
  List.getElem?_idxOf (mem_sortedRotations.2 h)

theorem bwtPrimaryIndex_lt {S : List Byte} (h : 0 < S.length) : bwtPrimaryIndex S < S.length := by
  rw [← length_sortedRotations S]
  exact List.idxOf_lt_length_iff.2 (mem_sortedRotations.2 h)

end Sys2Proof.Machine
end

section
/-! The inverse transform of the forward transform (42_bwt.md R144). The LF-mapping takes each row of the sorted
rotation matrix to a row with the preceding rotation; rows with equal rotations it keeps in order, so a walk of n steps,
which permutes the rows equal to rotation 0, leaves the first of them in its place. -/

namespace Sys2Proof.Machine

open Sys2Proof.Spec

/-! ### The preceding rotation -/

/-- The offset before an offset of the block, cyclically: the offset of the last byte of its rotation. -/
def prevOffset (S : List Byte) (i : Nat) : Nat := (i + S.length - 1) % S.length

theorem prevOffset_lt {S : List Byte} {i : Nat} (hi : i < S.length) : prevOffset S i < S.length :=
  Nat.mod_lt _ (by omega)

theorem prevOffset_add_one_mod {S : List Byte} {i : Nat} (hi : i < S.length) :
    (prevOffset S i + 1) % S.length = i := by
  rw [prevOffset, Nat.mod_add_mod, show i + S.length - 1 + 1 = i + S.length by omega, Nat.add_mod_right,
    Nat.mod_eq_of_lt hi]

theorem prevOffset_perm (S : List Byte) : ((List.range S.length).map (prevOffset S)).Perm (List.range S.length) := by
  refine map_range_perm (fun i => prevOffset_lt) fun i hi j hj h => ?_
  rw [← prevOffset_add_one_mod hi, h, prevOffset_add_one_mod hj]

/-- The preceding rotation moves the last byte of a rotation to its front. -/
theorem rotation_prevOffset {S : List Byte} {i : Nat} (hi : i < S.length) :
    ∃ w, rotation S (prevOffset S i) = S.getD (prevOffset S i) 0 :: w
      ∧ rotation S i = w ++ [S.getD (prevOffset S i) 0] := by
  have hj := prevOffset_lt hi
  have hprev : rotation S (prevOffset S i)
      = S.getD (prevOffset S i) 0 :: (S.drop (prevOffset S i + 1) ++ S.take (prevOffset S i)) := by
    rw [rotation, List.drop_eq_getElem_cons hj, List.getD_eq_getElem _ _ hj, List.cons_append]
  refine ⟨_, hprev, ?_⟩
  calc rotation S i = S.rotate ((prevOffset S i + 1) % S.length) := by
        rw [prevOffset_add_one_mod hi, rotation_eq_rotate hi.le]
    _ = (rotation S (prevOffset S i)).rotate 1 := by
        rw [List.rotate_mod, rotation_eq_rotate hj.le, List.rotate_rotate]
    _ = _ := by rw [hprev, List.rotate_cons_succ, List.rotate_zero]

/-! ### The sorted rotation matrix -/

/-- Row `k` of the sorted rotation matrix. -/
def sortedRow (S : List Byte) (k : Nat) : List Byte := rotation S ((sortedRotations S).getD k 0)

@[simp] theorem length_sortedRow (S : List Byte) (k : Nat) : (sortedRow S k).length = S.length := length_rotation ..

theorem sortedRotations_getD_lt {S : List Byte} {k : Nat} (hk : k < S.length) :
    (sortedRotations S).getD k 0 < S.length := by
  have hk' : k < (sortedRotations S).length := by simpa using hk
  rw [List.getD_eq_getElem _ _ hk']
  exact mem_sortedRotations.1 (List.getElem_mem hk')

/-- The rows rise strictly in the rotation order. -/
theorem rotKey_getD_lt {S : List Byte} {j k : Nat} (hk : k < S.length) (hjk : j < k) :
    rotKey S ((sortedRotations S).getD j 0) < rotKey S ((sortedRotations S).getD k 0) := by
  have hk' : k < (sortedRotations S).length := by simpa using hk
  rw [List.getD_eq_getElem _ _ hk', List.getD_eq_getElem _ _ (hjk.trans hk')]
  exact List.pairwise_iff_getElem.1 (sortedRotations_pairwise S) j k (hjk.trans hk') hk' hjk

/-- The sorted offsets, row by row. -/
theorem sortedRotations_eq_map (S : List Byte) :
    sortedRotations S = (List.range S.length).map fun k => (sortedRotations S).getD k 0 := by
  apply List.ext_getElem (by simp)
  intro k hk _
  simp [List.getD_eq_getElem?_getD, List.getElem?_eq_getElem hk]

/-- The last column holds the last byte of each row. -/
theorem bwtLastColumn_getD {S : List Byte} {k : Nat} (hk : k < S.length) :
    (bwtLastColumn S).getD k 0 = S.getD (prevOffset S ((sortedRotations S).getD k 0)) 0 := by
  have hk' : k < (sortedRotations S).length := by simpa using hk
  rw [List.getD_eq_getElem _ _ (by simpa using hk), List.getD_eq_getElem _ _ hk']
  exact List.getElem_map ..

/-! ### The LF-mapping takes each row to the preceding rotation -/

theorem numbers_cons_le_cons_iff {x y : Nat} {xs ys : List Nat} :
    x :: xs ≤ y :: ys ↔ x < y ∨ x = y ∧ xs ≤ ys := by
  rw [le_iff_lt_or_eq, le_iff_lt_or_eq, List.cons_lt_cons_iff, List.cons.injEq, and_or_left, or_assoc]

/-- Two sequences in order are in order without their ends, if these begin at the same place. -/
theorem le_of_append_le {xs ys us vs : List Nat} (hlen : xs.length = ys.length) (h : xs ++ us ≤ ys ++ vs) :
    xs ≤ ys := by
  induction xs generalizing ys with
  | nil => exact (List.length_eq_zero_iff.1 hlen.symm).ge
  | cons x xs ih =>
    cases ys with
    | nil => simp at hlen
    | cons y ys =>
      rw [List.cons_append, List.cons_append, numbers_cons_le_cons_iff] at h
      exact numbers_cons_le_cons_iff.2 (h.imp_right fun ⟨hxy, htl⟩ => ⟨hxy, ih (by simpa using hlen) htl⟩)

/-- A permutation of the indices that puts the values `A` in order puts each at its place in the sorted list. -/
theorem getElem?_of_sorting_perm {α : Type} [LinearOrder α] {n : Nat} {f : Nat → Nat} {A : Nat → α} {M : List α}
    (hf : ((List.range n).map f).Perm (List.range n)) (hM : M.Pairwise (· ≤ ·))
    (hA : ((List.range n).map A).Perm M) (hmono : ∀ i < n, ∀ j < n, f i ≤ f j → A i ≤ A j) {k : Nat} (hk : k < n) :
    M[f k]? = some (A k) := by
  obtain ⟨τ, hτ, hsorted⟩ : ∃ τ : List Nat, τ.Perm (List.range n) ∧ τ.Pairwise fun i j => f i ≤ f j :=
    haveI : Std.Total fun i j => f i ≤ f j := ⟨fun _ _ => le_total _ _⟩
    haveI : IsTrans Nat fun i j => f i ≤ f j := ⟨fun _ _ _ => le_trans⟩
    ⟨_, List.perm_insertionSort .., List.pairwise_insertionSort _ _⟩
  have hlt {i : Nat} (hi : i ∈ τ) : i < n := List.mem_range.1 (hτ.mem_iff.1 hi)
  have hfτ : τ.map f = List.range n :=
    ((hτ.map f).trans hf).eq_of_pairwise' (List.pairwise_map.2 hsorted) List.pairwise_le_range
  have hAτ : τ.map A = M :=
    ((hτ.map A).trans hA).eq_of_pairwise'
      (List.pairwise_map.2 (hsorted.imp_of_mem fun hi hj => hmono _ (hlt hi) _ (hlt hj))) hM
  obtain ⟨r, hr, rfl⟩ := List.getElem_of_mem (hτ.mem_iff.2 (List.mem_range.2 hk))
  have hfr : f τ[r] = r := by
    rw [← List.getElem_map f (h := by simpa using hr), List.getElem_of_eq hfτ, List.getElem_range]
  rw [hfr, ← hAτ, List.getElem?_map, List.getElem?_eq_getElem hr]
  rfl

/-- Rows whose LF values are in order have their preceding rotations in order: these begin with the rows' last bytes,
and go on with the rows. -/
theorem rotNumbers_prevOffset_le {S : List Byte} {i j : Nat} (hi : i < S.length) (hj : j < S.length)
    (h : lfMap (bwtLastColumn S) i ≤ lfMap (bwtLastColumn S) j) :
    rotNumbers S (prevOffset S ((sortedRotations S).getD i 0))
      ≤ rotNumbers S (prevOffset S ((sortedRotations S).getD j 0)) := by
  obtain ⟨w, hprev, hrow⟩ := rotation_prevOffset (sortedRotations_getD_lt hi)
  obtain ⟨w', hprev', hrow'⟩ := rotation_prevOffset (sortedRotations_getD_lt hj)
  have hbytes := rows_of_lfMap_le (by simpa using hj) h
  rw [bwtLastColumn_getD hi, bwtLastColumn_getD hj] at hbytes
  rw [rotNumbers, rotNumbers, hprev, hprev', List.map_cons, List.map_cons, numbers_cons_le_cons_iff]
  refine hbytes.imp_right fun ⟨hbyte, hij⟩ => ⟨hbyte, ?_⟩
  have hle : rotKey S ((sortedRotations S).getD i 0) ≤ rotKey S ((sortedRotations S).getD j 0) :=
    hij.eq_or_lt.elim (fun heq => heq ▸ le_rfl) fun hlt => (rotKey_getD_lt hj hlt).le
  have hnumbers : rotNumbers S ((sortedRotations S).getD i 0) ≤ rotNumbers S ((sortedRotations S).getD j 0) :=
    (Prod.Lex.toLex_le_toLex.1 hle).elim le_of_lt fun heq => heq.1.le
  rw [rotNumbers, rotNumbers, hrow, hrow', List.map_append, List.map_append] at hnumbers
  refine le_of_append_le ?_ hnumbers
  have hlen : S.length = w.length + 1 := by simpa using congrArg List.length hrow
  have hlen' : S.length = w'.length + 1 := by simpa using congrArg List.length hrow'
  rw [List.length_map, List.length_map]
  omega

theorem rotation_eq_of_rotNumbers_eq {S : List Byte} {i j : Nat} (h : rotNumbers S i = rotNumbers S j) :
    rotation S i = rotation S j :=
  List.map_injective_iff.2 (fun _ _ => BitVec.eq_of_toNat_eq) h

/-- The row at the LF value of a row is the preceding rotation (42_bwt.md R143). -/
theorem sortedRow_lfMap_eq {S : List Byte} {k : Nat} (hk : k < S.length) :
    sortedRow S (lfMap (bwtLastColumn S) k) = rotation S (prevOffset S ((sortedRotations S).getD k 0)) := by
  have hrows : ((sortedRotations S).map (rotNumbers S)).Pairwise (· ≤ ·) :=
    List.pairwise_map.2 ((sortedRotations_pairwise S).imp fun h =>
      (Prod.Lex.toLex_lt_toLex.1 h).elim le_of_lt fun heq => heq.1.le)
  have hperm : ((List.range S.length).map fun k => rotNumbers S (prevOffset S ((sortedRotations S).getD k 0))).Perm
      ((sortedRotations S).map (rotNumbers S)) := by
    have hσ := sortedRotations_perm S
    have hprev : ((sortedRotations S).map (prevOffset S)).Perm (sortedRotations S) :=
      (hσ.map _).trans ((prevOffset_perm S).trans hσ.symm)
    have hmap := hprev.map (rotNumbers S)
    rwa [sortedRotations_eq_map S, List.map_map, List.map_map, ← sortedRotations_eq_map] at hmap
  have hf := lfMap_perm (bwtLastColumn S)
  rw [length_bwtLastColumn] at hf
  have hget := getElem?_of_sorting_perm hf hrows hperm (fun i hi j hj => rotNumbers_prevOffset_le hi hj) hk
  have hlf : lfMap (bwtLastColumn S) k < (sortedRotations S).length := by
    simpa using lfMap_lt (L := bwtLastColumn S) (by simpa using hk)
  rw [List.getElem?_map, List.getElem?_eq_getElem hlf] at hget
  apply rotation_eq_of_rotNumbers_eq
  rw [List.getD_eq_getElem _ _ hlf]
  exact Option.some.inj hget

/-- A row and the row at its LF value: the last byte moves to the front. -/
theorem sortedRow_lfMap {S : List Byte} {k : Nat} (hk : k < S.length) :
    ∃ w, sortedRow S (lfMap (bwtLastColumn S) k) = (bwtLastColumn S).getD k 0 :: w
      ∧ sortedRow S k = w ++ [(bwtLastColumn S).getD k 0] := by
  rw [sortedRow_lfMap_eq hk, bwtLastColumn_getD hk]
  exact rotation_prevOffset (sortedRotations_getD_lt hk)

/-! ### The walk from the primary index -/

/-- After any number of LF-steps, turning the row back by as many bytes gives the row of the start. -/
theorem sortedRow_iterate_rotate {S : List Byte} {k : Nat} (hk : k < S.length) (j : Nat) :
    (sortedRow S ((lfMap (bwtLastColumn S))^[j] k)).rotate j = sortedRow S k := by
  induction j with
  | zero => exact List.rotate_zero _
  | succ j ih =>
    have hrow : (lfMap (bwtLastColumn S))^[j] k < S.length := by
      simpa using lfMap_iterate_lt (L := bwtLastColumn S) (by simpa using hk) j
    obtain ⟨w, hnext, hthis⟩ := sortedRow_lfMap hrow
    rw [Function.iterate_succ_apply', hnext, Nat.add_comm, ← List.rotate_rotate, List.rotate_cons_succ,
      List.rotate_zero, ← hthis, ih]

/-- LF-steps keep equal rows equal and in order. -/
theorem iterate_lt_of_equal_rows {S : List Byte} {r r' : Nat} (hr' : r' < S.length) (hlt : r < r')
    (heq : sortedRow S r = sortedRow S r') (j : Nat) :
    (lfMap (bwtLastColumn S))^[j] r < (lfMap (bwtLastColumn S))^[j] r'
      ∧ sortedRow S ((lfMap (bwtLastColumn S))^[j] r) = sortedRow S ((lfMap (bwtLastColumn S))^[j] r') := by
  induction j with
  | zero => exact ⟨hlt, heq⟩
  | succ j ih =>
    have hrow' : (lfMap (bwtLastColumn S))^[j] r' < S.length := by
      simpa using lfMap_iterate_lt (L := bwtLastColumn S) (by simpa using hr') j
    obtain ⟨hstep, hsame⟩ := ih
    obtain ⟨w, hnext, hthis⟩ := sortedRow_lfMap (hstep.trans hrow')
    obtain ⟨w', hnext', hthis'⟩ := sortedRow_lfMap hrow'
    rw [hthis, hthis'] at hsame
    obtain ⟨rfl, hbyte⟩ := List.append_inj' hsame rfl
    have hbyte := List.singleton_inj.1 hbyte
    rw [Function.iterate_succ_apply', Function.iterate_succ_apply', hnext, hnext', hbyte]
    exact ⟨lfMap_lt_of_byte_eq (by simpa using hstep.trans hrow') hbyte hstep, rfl⟩

/-- LF-steps reach every row. -/
theorem exists_iterate_lfMap_eq {L : List Byte} {p : Nat} (hp : p < L.length) (n : Nat) :
    ∃ c < L.length, (lfMap L)^[n] c = p := by
  have hsurj : Set.SurjOn (lfMap L) {i | i < L.length} {i | i < L.length} := fun i hi => by
    simpa using (lfMap_perm L).mem_iff.2 (List.mem_range.2 hi)
  exact hsurj.iterate n hp

/-- The row of the primary index is the block. -/
theorem sortedRow_bwtPrimaryIndex {S : List Byte} (h : 0 < S.length) : sortedRow S (bwtPrimaryIndex S) = S := by
  simp [sortedRow, List.getD, getElem?_bwtPrimaryIndex h, rotation]

/-- Among the rows equal to the block, that of offset 0 is the first (42_bwt.md R140). -/
theorem bwtPrimaryIndex_le {S : List Byte} {c : Nat} (hc : c < S.length) (hrow : sortedRow S c = S) :
    bwtPrimaryIndex S ≤ c := by
  have hpos : 0 < S.length := by omega
  by_contra hlt
  have hkey := rotKey_getD_lt (bwtPrimaryIndex_lt hpos) (not_le.1 hlt)
  rcases Prod.Lex.toLex_lt_toLex.1 hkey with hnumbers | ⟨_, hoffset⟩
  · have heq : sortedRow S c = sortedRow S (bwtPrimaryIndex S) := hrow.trans (sortedRow_bwtPrimaryIndex hpos).symm
    exact hnumbers.ne (congrArg (List.map BitVec.toNat) heq)
  · simp [List.getD, getElem?_bwtPrimaryIndex hpos] at hoffset

/-- The walk over the forward transform of a block returns to the primary index (42_bwt.md R144). -/
theorem iterate_lfMap_bwtPrimaryIndex {S : List Byte} (h : 0 < S.length) :
    (lfMap (bwtLastColumn S))^[S.length] (bwtPrimaryIndex S) = bwtPrimaryIndex S := by
  have hrow_iterate {r : Nat} (hr : r < S.length) :
      sortedRow S ((lfMap (bwtLastColumn S))^[S.length] r) = sortedRow S r :=
    calc sortedRow S ((lfMap (bwtLastColumn S))^[S.length] r)
        = (sortedRow S ((lfMap (bwtLastColumn S))^[S.length] r)).rotate S.length := by
          rw [← List.rotate_mod, length_sortedRow, Nat.mod_self, List.rotate_zero]
      _ = sortedRow S r := sortedRow_iterate_rotate hr S.length
  have hp := bwtPrimaryIndex_lt h
  have hprow := sortedRow_bwtPrimaryIndex h
  obtain ⟨c, hc, hcp⟩ := exists_iterate_lfMap_eq (L := bwtLastColumn S) (by simpa using hp) S.length
  rw [length_bwtLastColumn] at hc
  have hcrow : sortedRow S c = S := by rw [← hrow_iterate hc, hcp, hprow]
  rcases (bwtPrimaryIndex_le hc hcrow).eq_or_lt with heq | hlt
  · rwa [← heq] at hcp
  · obtain ⟨hbelow, _⟩ := iterate_lt_of_equal_rows hc hlt (hprow.trans hcrow.symm) S.length
    have hmin := bwtPrimaryIndex_le (S := S) (c := (lfMap (bwtLastColumn S))^[S.length] (bwtPrimaryIndex S))
      (by simpa using lfMap_iterate_lt (L := bwtLastColumn S) (by simpa using hp) S.length)
      ((hrow_iterate hp).trans hprow)
    omega

/-- The byte visited after `k` steps is the k-th of the block, from its end. -/
theorem bwtLastColumn_getD_iterate {S : List Byte} {k : Nat} (hk : k < S.length) :
    (bwtLastColumn S).getD ((lfMap (bwtLastColumn S))^[k] (bwtPrimaryIndex S)) 0 = S[S.length - 1 - k] := by
  have hpos : 0 < S.length := by omega
  have hp := bwtPrimaryIndex_lt hpos
  have hrow : (lfMap (bwtLastColumn S))^[k] (bwtPrimaryIndex S) < S.length := by
    simpa using lfMap_iterate_lt (L := bwtLastColumn S) (by simpa using hp) k
  have hrotate := (sortedRow_iterate_rotate hp k).trans (sortedRow_bwtPrimaryIndex hpos)
  obtain ⟨w, -, hthis⟩ := sortedRow_lfMap hrow
  have hlen : S.length = w.length + 1 := by simpa using congrArg List.length hthis
  rw [hthis] at hrotate
  have hget := List.getElem_of_eq hrotate.symm (i := S.length - 1 - k) (by omega)
  rw [hget, List.getElem_rotate]
  simp [show S.length - 1 - k + k = w.length by omega]

/-- The inverse of the forward transform of a block is the block, and its walk returns (42_bwt.md R144). -/
theorem bwtInverse_bwtLastColumn (S : List Byte) :
    bwtInverse (bwtLastColumn S) (bwtPrimaryIndex S) = (bwtPrimaryIndex S, S) := by
  rcases Nat.eq_zero_or_pos S.length with hnil | hpos
  · rw [List.length_eq_zero_iff.1 hnil]
    rfl
  have hvisited : ((List.range S.length).map fun k =>
      (bwtLastColumn S).getD ((lfMap (bwtLastColumn S))^[k] (bwtPrimaryIndex S)) 0) = S.reverse := by
    apply List.ext_getElem (by simp)
    intro k hk _
    rw [List.getElem_map, List.getElem_range, List.getElem_reverse, bwtLastColumn_getD_iterate (by simpa using hk)]
  rw [bwtInverse_eq_iterate (.inl (by simpa using bwtPrimaryIndex_lt hpos)), length_bwtLastColumn,
    iterate_lfMap_bwtPrimaryIndex hpos, hvisited, List.reverse_reverse]

end Sys2Proof.Machine
end

section
/-! What the block transform commands end in (42_bwt.md R141, R142): their checks give the error of the statements, and
without one they store the transform at DST_ADDR. -/

namespace Sys2Proof.Machine

open Sys2Proof.Spec

/-! ### The first failing check and the error of the statements -/

/-- The class and detail codes of an error (60_exceptions.md R201). -/
def CmdError.codes (e : CmdError) : Nat × Nat := (e.cls.code.toNat, e.detail.toNat)

theorem codes_firstError_cons (b : Bool) (e : CmdError) (cs : List Check) :
    (firstError ((b, e) :: cs)).map CmdError.codes
      = if b = true then some e.codes else (firstError cs).map CmdError.codes := by
  cases b <;> rfl

theorem firstError_append (cs ds : List Check) : firstError (cs ++ ds) = (firstError cs).or (firstError ds) := by
  induction cs with
  | nil => rfl
  | cons c cs ih =>
    obtain ⟨b, e⟩ := c
    cases b
    · exact ih
    · rfl

/-- The size check comes first (60_exceptions.md R202, R203). -/
theorem codes_firstError_checkSrcSize (s : State) (cs : List Check) :
    (firstError (checkSrcSize s :: cs)).map CmdError.codes
      = if ¬ BlockOk s s.srcLen then some (1, 1) else (firstError cs).map CmdError.codes := by
  rw [checkSrcSize, codes_firstError_cons]
  simp only [exceedsBlock_iff, not_le]
  rfl

/-- The range checks give the range error of the statements (60_exceptions.md R203). -/
theorem codes_firstError_checkRanges (s : State) (cs : List Check) :
    (firstError (checkRanges s ++ cs)).map CmdError.codes = rangeError s ((firstError cs).map CmdError.codes) := by
  simp only [checkRanges, checkSrc, checkDst, checkOverlap, List.cons_append, List.nil_append, codes_firstError_cons,
    Bool.not_eq_true', ← Bool.not_eq_true, inBounds_iff_inBuf, overlaps_iff]
  rfl

theorem codes_firstError_checkCap (s : State) (need : Nat) (cs : List Check) :
    (firstError (checkCap s need :: cs)).map CmdError.codes
      = if s.dstCap.toNat < need then some (10, 0) else (firstError cs).map CmdError.codes := by
  rw [checkCap, codes_firstError_cons]
  simp only [decide_eq_true_eq]
  rfl

theorem rangeError_of_rangesOk {s : State} (h : RangesOk s) (rest : Option (Nat × Nat)) : rangeError s rest = rest := by
  obtain ⟨hsrc, hdst, hshare⟩ := h
  rw [rangeError, if_neg (not_not.2 hsrc), if_neg (not_not.2 hdst), if_neg hshare]

theorem rangeError_eq_none {s : State} {rest : Option (Nat × Nat)} (h : rangeError s rest = none) :
    RangesOk s ∧ rest = none := by
  unfold rangeError at h
  split at h
  · cases h
  split at h
  · cases h
  split at h
  · cases h
  next hsrc hdst hshare => exact ⟨⟨not_not.1 hsrc, not_not.1 hdst, hshare⟩, h⟩

/-- An error completion by its codes (60_exceptions.md R210). -/
theorem raiseError_of_codes {o : Byte} {e : CmdError} {c d : Nat} (h : e.codes = (c, d)) (s : State) :
    raiseError o e s = errorState o.toNat c d s := by
  obtain ⟨rfl, rfl⟩ := Prod.mk.inj h
  exact raiseError_eq_errorState o e s

/-! ### The store -/

/-- A success that stores its output is the one of the statements. -/
theorem wrote_result_dstWrite (s : State) (out : List Byte) (len aux : Word) :
    Wrote s (result len aux (dstWrite s out)) out len aux :=
  ⟨rfl, memRead_memWrite s s.dstAddr.toNat out, fun _ ha => readBuf_memWrite_outside ha⟩

/-! ### BWT.FWD -/

theorem commandError_bwtFwd (s : State) :
    commandError s .bwtFwd
      = (firstError (checkSrcSize s :: checkRanges s ++ [checkCap s s.srcLen.toNat])).map CmdError.codes := by
  rw [List.cons_append, codes_firstError_checkSrcSize, codes_firstError_checkRanges, codes_firstError_checkCap]
  rfl

theorem commandError_bwtFwd_eq_none {s : State} (hblock : BlockOk s s.srcLen) (hranges : RangesOk s)
    (hcap : s.srcLen.toNat ≤ s.dstCap.toNat) : commandError s .bwtFwd = none := by
  rw [commandError, if_neg (not_not.2 hblock), rangeError_of_rangesOk hranges, if_neg hcap.not_gt]

theorem checks_of_commandError_bwtFwd {s : State} (h : commandError s .bwtFwd = none) :
    BlockOk s s.srcLen ∧ RangesOk s ∧ s.srcLen.toNat ≤ s.dstCap.toNat := by
  rw [commandError] at h
  split at h
  · cases h
  next hblock =>
    obtain ⟨hranges, hcap⟩ := rangeError_eq_none h
    exact ⟨not_not.1 hblock, hranges, by simpa using hcap⟩

/-- The state in which BWT.FWD ends when its checks pass (42_bwt.md R141). -/
def bwtForwarded (s : State) : State :=
  result s.srcLen (BitVec.ofNat 32 (bwtPrimaryIndex (srcBytes s))) (dstWrite s (bwtLastColumn (srcBytes s)))

/-- The first failing check decides what BWT.FWD ends in. -/
theorem exec_bwtFwd_eq (s : State) :
    exec .bwtFwd s = .next ((firstError (checkSrcSize s :: checkRanges s ++ [checkCap s s.srcLen.toNat])).elim
      (bwtForwarded s) fun e => raiseError (opcode .bwtFwd) e s) := by
  dsimp only [exec, execBwtFwd]
  cases firstError (checkSrcSize s :: checkRanges s ++ [checkCap s s.srcLen.toNat]) with
  | some e => rfl
  | none => rfl

theorem exec_bwtFwd_of_none {s : State} (h : commandError s .bwtFwd = none) :
    exec .bwtFwd s = .next (bwtForwarded s) := by
  rw [commandError_bwtFwd, Option.map_eq_none_iff] at h
  rw [exec_bwtFwd_eq, h, Option.elim_none]

theorem exec_bwtFwd_of_some {s : State} {c d : Nat} (h : commandError s .bwtFwd = some (c, d)) :
    exec .bwtFwd s = .next (errorState 0x20 c d s) := by
  rw [commandError_bwtFwd, Option.map_eq_some_iff] at h
  obtain ⟨e, he, hcodes⟩ := h
  rw [exec_bwtFwd_eq, he, Option.elim_some, raiseError_of_codes hcodes]
  rfl

/-! ### BWT.INV -/

/-- The checks of BWT.INV before its walk (42_bwt.md R142). -/
def bwtInvChecks (s : State) : List Check :=
  checkSrcSize s :: checkRanges s ++
    [checkCap s s.srcLen.toNat,
     (if s.srcLen.toNat = 0 then s.aux != 0 else decide (s.srcLen.toNat ≤ s.aux.toNat), ⟨.corruptTransform, 1⟩)]

/-- The check of BWT.INV that its walk returns (42_bwt.md R142). -/
def checkWalk (s : State) : Check :=
  ((bwtInverse (srcBytes s) s.aux.toNat).1 != s.aux.toNat, ⟨.corruptTransform, 2⟩)

/-- The row in which the walk of BWT.INV ends. -/
theorem bwtInverse_row {s : State} (h : s.aux.toNat < s.srcLen.toNat ∨ s.srcLen.toNat = 0) :
    (bwtInverse (srcBytes s) s.aux.toNat).1 = (lf (srcBytes s))^[s.srcLen.toNat] s.aux.toNat := by
  rw [bwtInverse_eq_iterate (by simpa using h), length_srcBytes, lf_eq_lfMap]

theorem commandError_bwtInv (s : State) :
    commandError s .bwtInv = (firstError (bwtInvChecks s ++ [checkWalk s])).map CmdError.codes := by
  rw [bwtInvChecks, List.append_assoc, List.cons_append, codes_firstError_checkSrcSize, codes_firstError_checkRanges,
    List.cons_append, codes_firstError_checkCap, List.cons_append, codes_firstError_cons, List.nil_append, checkWalk,
    codes_firstError_cons, commandError]
  rcases Nat.eq_zero_or_pos s.srcLen.toNat with hn | hn
  · have hwalk : (bwtInverse (srcBytes s) s.aux.toNat).1 = s.aux.toNat := by
      rw [bwtInverse_row (.inr hn), hn]
      rfl
    simp [hn, hwalk, CmdError.codes, ErrClass.code, BitVec.toNat_eq]
  · by_cases haux : s.srcLen.toNat ≤ s.aux.toNat
    · simp [hn.ne', haux, CmdError.codes, ErrClass.code]
    · rw [bwtInverse_row (.inl (not_le.1 haux))]
      simp [hn.ne', haux, CmdError.codes, ErrClass.code]

/-- The state in which BWT.INV ends when its checks pass (42_bwt.md R142). -/
def bwtInverted (s : State) : State := result s.srcLen s.aux (dstWrite s (bwtInverse (srcBytes s) s.aux.toNat).2)

/-- The first failing check, the return of the walk being the last, decides what BWT.INV ends in. -/
theorem exec_bwtInv_eq (s : State) :
    exec .bwtInv s = .next ((firstError (bwtInvChecks s ++ [checkWalk s])).elim (bwtInverted s) fun e =>
      raiseError (opcode .bwtInv) e s) := by
  rw [firstError_append]
  dsimp only [exec, execBwtInv]
  rw [← bwtInvChecks, ← checkWalk]
  cases firstError (bwtInvChecks s) with
  | some e => rfl
  | none =>
    cases firstError [checkWalk s] with
    | some e => rfl
    | none => rfl

theorem exec_bwtInv_of_none {s : State} (h : commandError s .bwtInv = none) :
    exec .bwtInv s = .next (bwtInverted s) := by
  rw [commandError_bwtInv, Option.map_eq_none_iff] at h
  rw [exec_bwtInv_eq, h, Option.elim_none]

theorem exec_bwtInv_of_some {s : State} {c d : Nat} (h : commandError s .bwtInv = some (c, d)) :
    exec .bwtInv s = .next (errorState 0x21 c d s) := by
  rw [commandError_bwtInv, Option.map_eq_some_iff] at h
  obtain ⟨e, he, hcodes⟩ := h
  rw [exec_bwtInv_eq, he, Option.elim_some, raiseError_of_codes hcodes]
  rfl

/-- BWT.INV succeeds when its ranges and its block pass and its walk returns (42_bwt.md R142). -/
theorem commandError_bwtInv_eq_none {s : State} (hblock : BlockOk s s.srcLen) (hranges : RangesOk s)
    (hcap : s.srcLen.toNat ≤ s.dstCap.toNat)
    (hindex : s.aux.toNat < s.srcLen.toNat ∨ s.srcLen.toNat = 0 ∧ s.aux.toNat = 0)
    (hwalk : (lf (srcBytes s))^[s.srcLen.toNat] s.aux.toNat = s.aux.toNat) : commandError s .bwtInv = none := by
  rw [commandError, if_neg (not_not.2 hblock), rangeError_of_rangesOk hranges, if_neg hcap.not_gt]
  rcases hindex with hlt | ⟨hn, haux⟩
  · rw [if_neg (by omega), if_neg hlt.not_ge, if_neg (not_not.2 hwalk)]
  · rw [if_pos hn, if_neg (not_not.2 haux)]

/-! ### BWT.INV after BWT.FWD -/

/-- A BWT.FWD that reports success passed its checks. -/
theorem eq_bwtForwarded_of_done {s t : State} (h : exec .bwtFwd s = .next t) (hdone : t.status.done = true) :
    commandError s .bwtFwd = none ∧ t = bwtForwarded s := by
  cases herr : commandError s .bwtFwd with
  | none =>
    rw [exec_bwtFwd_of_none herr] at h
    exact ⟨rfl, (Host.Outcome.next.inj h).symm⟩
  | some e =>
    rw [exec_bwtFwd_of_some herr] at h
    rw [← Host.Outcome.next.inj h] at hdone
    cases hdone

/-- The state in which BWT.FWD ended, with the operands of BWT.INV over its output, into `[d, d + c)` (42_bwt.md
R144). -/
def bwtInvOperands (s : State) (d c : Word) : State :=
  { bwtForwarded s with
    srcAddr := s.dstAddr, srcLen := s.srcLen, dstAddr := d, dstCap := c, aux := (bwtForwarded s).resAux }

/-- BWT.INV reads what BWT.FWD wrote. -/
theorem srcBytes_bwtInvOperands (s : State) (d c : Word) :
    srcBytes (bwtInvOperands s d c) = bwtLastColumn (srcBytes s) := by
  have hread := memRead_memWrite s s.dstAddr.toNat (bwtLastColumn (srcBytes s))
  rwa [length_bwtLastColumn, length_srcBytes] at hread

theorem bwtPrimaryIndex_lt_or_eq_zero (S : List Byte) :
    bwtPrimaryIndex S < S.length ∨ S.length = 0 ∧ bwtPrimaryIndex S = 0 := by
  rcases Nat.eq_zero_or_pos S.length with hnil | hpos
  · rw [List.length_eq_zero_iff.1 hnil]
    exact .inr ⟨rfl, rfl⟩
  · exact .inl (bwtPrimaryIndex_lt hpos)

/-- The primary index fits in RES_AUX. -/
theorem toNat_aux_bwtInvOperands (s : State) (d c : Word) :
    (bwtInvOperands s d c).aux.toNat = bwtPrimaryIndex (srcBytes s) := by
  have hindex := bwtPrimaryIndex_lt_or_eq_zero (srcBytes s)
  rw [length_srcBytes] at hindex
  exact toNat_ofNat_of_le (c := s.srcLen) (by omega)

/-- BWT.INV of what BWT.FWD wrote finds the block. -/
theorem bwtInverse_bwtInvOperands (s : State) (d c : Word) :
    bwtInverse (srcBytes (bwtInvOperands s d c)) (bwtInvOperands s d c).aux.toNat
      = (bwtPrimaryIndex (srcBytes s), srcBytes s) := by
  rw [srcBytes_bwtInvOperands, toNat_aux_bwtInvOperands, bwtInverse_bwtLastColumn]

/-- No check of BWT.INV fails on what BWT.FWD wrote, into a destination that fits apart from it. -/
theorem commandError_bwtInvOperands {s : State} {d c : Word} (h : commandError s .bwtFwd = none)
    (hdst : InBuf s.params d c) (hshare : ¬ Share s.dstAddr s.srcLen d c) (hcap : s.srcLen.toNat ≤ c.toNat) :
    commandError (bwtInvOperands s d c) .bwtInv = none := by
  obtain ⟨hblock, ⟨_, hout, _⟩, hfit⟩ := checks_of_commandError_bwtFwd h
  have hsrc : InBuf s.params s.dstAddr s.srcLen := by omega
  have hindex := bwtPrimaryIndex_lt_or_eq_zero (srcBytes s)
  rw [length_srcBytes, ← toNat_aux_bwtInvOperands s d c] at hindex
  refine commandError_bwtInv_eq_none hblock ⟨hsrc, hdst, hshare⟩ hcap hindex ?_
  rw [← bwtInverse_row (hindex.imp_right And.left), bwtInverse_bwtInvOperands, toNat_aux_bwtInvOperands]

end Sys2Proof.Machine
end

section
/-! The block transform (42_bwt.md R140 to R144). -/

namespace Sys2Proof.Proofs

open Sys2Proof.Machine Sys2Proof.Spec

/-- Settles O33: BWT.INV reads the last column and the primary index, whose walk visits the block from its end and
returns. -/
theorem bwtRoundTrip : Obligations.BwtRoundTrip := by
  intro s t d c hexec hdone hdst hshare hcap
  obtain ⟨hnone, rfl⟩ := eq_bwtForwarded_of_done hexec hdone
  have hrun := exec_bwtInv_of_none (commandError_bwtInvOperands hnone hdst hshare hcap)
  obtain ⟨-, hread, -⟩ : Wrote (bwtInvOperands s d c) (bwtInverted (bwtInvOperands s d c)) _ _ _ :=
    wrote_result_dstWrite ..
  rw [bwtInverse_bwtInvOperands, length_srcBytes] at hread
  exact ⟨_, hrun, rfl, hread⟩

/-- Settles O30: the ordering is the model's sorted list of offsets. -/
theorem bwtForwardRule : Obligations.BwtForwardRule := by
  intro s
  refine ⟨fun hblock hranges hcap => ?_, fun c d => exec_bwtFwd_of_some⟩
  have hrun := exec_bwtFwd_of_none (commandError_bwtFwd_eq_none hblock hranges hcap)
  have hlen : (srcBytes s).length = s.srcLen.toNat := length_srcBytes s
  refine ⟨_, sortedRotations (srcBytes s), bwtPrimaryIndex (srcBytes s), hrun, ?_, sortedRotations_rotBefore _,
    fun hn => ?_, fun hn => getElem?_bwtPrimaryIndex (hlen ▸ hn), ?_⟩
  · exact hlen ▸ sortedRotations_perm (srcBytes s)
  · rw [List.length_eq_zero_iff.1 (hlen.trans hn), bwtPrimaryIndex_nil]
  · exact hlen ▸ wrote_result_dstWrite s (bwtLastColumn (srcBytes s)) _ _

/-- Settles O31: the walk visits the iterates of the LF-mapping. -/
theorem bwtInverseRule : Obligations.BwtInverseRule := by
  intro s
  refine ⟨fun hblock hranges hcap hindex hwalk => ?_, fun c d => exec_bwtInv_of_some⟩
  refine ⟨_, exec_bwtInv_of_none (commandError_bwtInv_eq_none hblock hranges hcap hindex hwalk), ?_⟩
  have hstored : Wrote s (bwtInverted s) _ _ _ := wrote_result_dstWrite ..
  rwa [bwtInverse_eq_iterate (by simpa using hindex.imp_right And.left), length_srcBytes, ← lf_eq_lfMap] at hstored

/-- Settles O32: LF values are rows, and different rows have different ones. -/
theorem lfMapIsPermutation : Obligations.LfMapIsPermutation := lfMap_perm

end Sys2Proof.Proofs
end

section
/-! The table files as the Huffman table unit uses them (10_state.md R38, R40): what stands among the entries, the byte
values with a code, and the largest code length. -/

namespace Sys2Proof.Machine

open Sys2Proof.Spec

theorem Table.mem_entries {α : Type} {t : Table α} {x : α} : x ∈ t.entries ↔ ∃ v, t.get v = x := by
  constructor
  · intro h
    obtain ⟨k, hk, rfl⟩ := List.mem_iff_getElem.1 h
    have hk256 : k < 256 := t.size_eq ▸ hk
    exact ⟨BitVec.ofNat 8 k, by simp [Table.get, Nat.mod_eq_of_lt hk256]⟩
  · rintro ⟨v, rfl⟩
    exact List.getElem_mem _

theorem toNat_pos_iff {n : Nat} {x : BitVec n} : 0 < x.toNat ↔ x ≠ 0 :=
  Nat.pos_iff_ne_zero.trans (BitVec.toNat_eq (y := 0)).not.symm

/-- The byte values with a code are those of the statements (10_state.md R38). -/
theorem symbols_eq_coded (lens : Table Byte) : symbols lens = coded lens := by
  simp [symbols, coded, Table.support_eq, toNat_pos_iff]

theorem Table.support_eq_singleton {n : Nat} {t : Table (BitVec n)} {v : Byte} (h : ∀ u, t.get u ≠ 0 ↔ u = v) :
    t.support = [v] :=
  List.perm_singleton.1 ((List.perm_ext_iff_of_nodup (Table.support_nodup t) (List.nodup_singleton v)).2 fun u => by
    rw [Table.mem_support, h, List.mem_singleton])

/-- The largest code length is the largest of the entries (10_state.md R38). -/
theorem longest_spec (lens : Table Byte) :
    (∀ v, (lens.get v).toNat ≤ longest lens) ∧ ∃ v, (lens.get v).toNat = longest lens := by
  have hmem (v : Byte) : (lens.get v).toNat ∈ lens.entries.map BitVec.toNat :=
    List.mem_map_of_mem (Table.mem_entries.2 ⟨v, rfl⟩)
  obtain ⟨m, hm⟩ := Option.isSome_iff_exists.1 (List.isSome_max?_of_mem (hmem 0))
  have hlongest : longest lens = m := by simp [longest, List.foldl_max, hm]
  obtain ⟨hmax, hle⟩ := List.max?_eq_some_iff.1 hm
  rw [hlongest]
  refine ⟨fun v => hle _ (hmem v), ?_⟩
  obtain ⟨l, hl, hlm⟩ := List.mem_map.1 hmax
  obtain ⟨v, rfl⟩ := Table.mem_entries.1 hl
  exact ⟨v, hlm⟩

/-- The largest code length fits in MAXLEN. -/
theorem toNat_ofNat_longest (lens : Table Byte) : (BitVec.ofNat 32 (longest lens)).toNat = longest lens := by
  obtain ⟨v, hv⟩ := (longest_spec lens).2
  rw [← hv, BitVec.toNat_ofNat]
  have := (lens.get v).isLt
  omega

end Sys2Proof.Machine
end

section
/-! How long a Huffman code can be (43_huffman.md R158 (c)): in the construction of R154 a byte value at depth `d` of a
node gives the node a weight of at least the Fibonacci number `d + 2`, and the counts of FREQ add up to `2 ^ 40` at
most. -/

namespace Sys2Proof.Machine

/-! ### The order of the nodes -/

theorem HufNode.total_le : Std.Total HufNode.le := ⟨fun x y => by unfold HufNode.le; omega⟩

theorem HufNode.trans_le : IsTrans HufNode HufNode.le := ⟨fun x y z => by unfold HufNode.le; omega⟩

theorem HufNode.weight_le {x y : HufNode} (h : x.le y) : x.weight ≤ y.weight := by
  unfold HufNode.le at h
  omega

theorem pairwise_insertionSort_hufNode (ns : List HufNode) : (ns.insertionSort HufNode.le).Pairwise HufNode.le :=
  haveI := HufNode.total_le
  haveI := HufNode.trans_le
  List.pairwise_insertionSort _ _

theorem pairwise_orderedInsert_hufNode {ns : List HufNode} (x : HufNode) (h : ns.Pairwise HufNode.le) :
    (List.orderedInsert HufNode.le x ns).Pairwise HufNode.le :=
  haveI := HufNode.total_le
  haveI := HufNode.trans_le
  h.orderedInsert x

/-! ### Members and weights -/

@[simp] theorem weight_hufMerge (x y : HufNode) : (hufMerge x y).weight = x.weight + y.weight := rfl

@[simp] theorem key_hufMerge (x y : HufNode) : (hufMerge x y).key = min x.key y.key := rfl

theorem mem_members_hufMerge {x y : HufNode} {m : Byte × Nat} :
    m ∈ (hufMerge x y).members ↔ ∃ d, (m.1, d) ∈ x.members ++ y.members ∧ m.2 = d + 1 := by
  obtain ⟨v, e⟩ := m
  simp only [hufMerge, List.mem_map, Prod.exists, Prod.mk.injEq]
  exact ⟨fun ⟨_, d, h, rfl, hd⟩ => ⟨d, h, hd.symm⟩, fun ⟨d, h, hd⟩ => ⟨v, d, h, rfl, hd.symm⟩⟩

/-- What holds of nodes in order and is kept by merging the first two holds of what the construction leaves. -/
theorem hufMergeAll_induction {P : List HufNode → Prop}
    (hmerge : ∀ x y ns, P (x :: y :: ns) → P (List.orderedInsert HufNode.le (hufMerge x y) ns)) (n : Nat)
    (ns : List HufNode) (h : P ns) : P (hufMergeAll n ns) := by
  induction n, ns using hufMergeAll.induct with
  | case1 n x y ns ih =>
    rw [hufMergeAll]
    exact ih (hmerge x y ns h)
  | case2 n ns hstop => rwa [hufMergeAll]; exact hstop

/-- The construction keeps the total weight. -/
theorem sum_weight_hufMergeAll (n : Nat) (ns : List HufNode) :
    ((hufMergeAll n ns).map HufNode.weight).sum = (ns.map HufNode.weight).sum :=
  hufMergeAll_induction (P := fun ms => (ms.map HufNode.weight).sum = (ns.map HufNode.weight).sum)
    (fun x y ms h => by
      rw [((List.perm_orderedInsert _ (hufMerge x y) ms).map _).sum_eq, ← h]
      simp [add_assoc]) n ns rfl

/-! ### The Fibonacci bound -/

/-- A weight is at least the Fibonacci number `d + k` for every byte value at depth `d` of a node. -/
def FibLe (k : Nat) (x : HufNode) (weight : Nat) : Prop := ∀ m ∈ x.members, Nat.fib (m.2 + k) ≤ weight

theorem FibLe.mono {k w w' : Nat} {x : HufNode} (h : FibLe k x w) (hw : w ≤ w') : FibLe k x w' :=
  fun m hm => (h m hm).trans hw

theorem fibLe_hufMerge {k w : Nat} {x y : HufNode} (hx : FibLe (k + 1) x w) (hy : FibLe (k + 1) y w) :
    FibLe k (hufMerge x y) w := by
  intro m hm
  obtain ⟨d, hd, hm2⟩ := mem_members_hufMerge.1 hm
  rw [hm2, Nat.add_right_comm, Nat.add_assoc]
  rcases List.mem_append.1 hd with hd | hd
  · exact hx _ hd
  · exact hy _ hd

/-- The nodes stand in order; the weight of each bounds the depths in it (`own`), and bounds those in every other node
one Fibonacci number lower (`others`), since a node has been merged from two that came before all others. -/
structure FibBounded (ns : List HufNode) : Prop where
  sorted : ns.Pairwise HufNode.le
  own : ∀ x ∈ ns, FibLe 2 x x.weight
  others : ns.Pairwise fun x y => FibLe 1 x y.weight ∧ FibLe 1 y x.weight

theorem FibBounded.merge {x y : HufNode} {ns : List HufNode} (h : FibBounded (x :: y :: ns)) :
    FibBounded (List.orderedInsert HufNode.le (hufMerge x y) ns) := by
  obtain ⟨hsorted, hown, hothers⟩ := h
  simp only [List.pairwise_cons, List.forall_mem_cons] at hsorted hown hothers
  obtain ⟨⟨hxy, hxns⟩, hyns, hns⟩ := hsorted
  obtain ⟨hx, hy, hnsown⟩ := hown
  obtain ⟨⟨⟨hxy1, hyx1⟩, hxothers⟩, -, hnsothers⟩ := hothers
  have hperm := List.perm_orderedInsert HufNode.le (hufMerge x y) ns
  have hfib {u w : HufNode} (hu : FibLe 2 u u.weight) (huw : FibLe 1 u w.weight) :
      FibLe 3 u (u.weight + w.weight) := fun m hm => by
    rw [show m.2 + 3 = m.2 + 1 + 2 from rfl, Nat.fib_add_two, Nat.add_comm]
    exact Nat.add_le_add (hu m hm) (huw m hm)
  refine ⟨pairwise_orderedInsert_hufNode _ hns, fun u hu => ?_, ?_⟩
  · rcases List.mem_cons.1 (hperm.mem_iff.1 hu) with rfl | hu
    · exact fibLe_hufMerge (hfib hx hxy1) ((hfib hy hyx1).mono (Nat.add_comm ..).le)
    · exact hnsown u hu
  · refine (hperm.pairwise_iff fun hr => hr.symm).2 (List.pairwise_cons.2 ⟨fun u hu => ⟨?_, ?_⟩, hnsothers⟩)
    · exact fibLe_hufMerge (hx.mono (HufNode.weight_le (hxns u hu))) (hy.mono (HufNode.weight_le (hyns u hu)))
    · exact (hxothers u hu).2.mono (by simp)

/-- The leaves in order are so bounded: their depths are 0 and their weights at least 1. -/
theorem fibBounded_hufLeaves (F : Table Word) : FibBounded ((hufLeaves F).insertionSort HufNode.le) := by
  have hleaf : ∀ x ∈ (hufLeaves F).insertionSort HufNode.le, 0 < x.weight ∧ ∀ m ∈ x.members, m.2 = 0 := by
    intro x hx
    obtain ⟨v, hv, rfl⟩ := List.mem_map.1 ((List.mem_insertionSort _).1 hx)
    exact ⟨toNat_pos_iff.2 (mem_present.1 hv), by simp [hufLeaf]⟩
  have hbound {k : Nat} {x y : HufNode} (hk : Nat.fib k = 1) (hx : x ∈ (hufLeaves F).insertionSort HufNode.le)
      (hy : y ∈ (hufLeaves F).insertionSort HufNode.le) : FibLe k x y.weight := fun m hm => by
    rw [(hleaf x hx).2 m hm, Nat.zero_add, hk]
    exact (hleaf y hy).1
  exact ⟨pairwise_insertionSort_hufNode _, fun x hx => hbound rfl hx hx,
    List.pairwise_of_forall_mem_list fun x hx y hy => ⟨hbound rfl hx hy, hbound rfl hy hx⟩⟩

/-- The counts of a FREQ table add up to less than the 60th Fibonacci number (R158). -/
theorem sum_weight_hufLeaves_lt (F : Table Word) : ((hufLeaves F).map HufNode.weight).sum < Nat.fib 60 := by
  have hcount : (hufLeaves F).length ≤ 256 := by
    rw [hufLeaves, List.length_map]
    exact Table.length_support_le F
  have hweight : ∀ w ∈ (hufLeaves F).map HufNode.weight, w ≤ 2 ^ 32 := fun w hw => by
    obtain ⟨x, hx, rfl⟩ := List.mem_map.1 hw
    obtain ⟨v, -, rfl⟩ := List.mem_map.1 hx
    exact (F.get v).isLt.le
  calc ((hufLeaves F).map HufNode.weight).sum ≤ (hufLeaves F).length * 2 ^ 32 := by
        simpa using List.sum_le_card_nsmul _ _ hweight
    _ ≤ 256 * 2 ^ 32 := Nat.mul_le_mul_right _ hcount
    _ < Nat.fib 60 := by norm_num

theorem hufDepths_eq (F : Table Word) :
    hufDepths F
      = (hufMergeAll (hufLeaves F).length ((hufLeaves F).insertionSort HufNode.le)).flatMap HufNode.members := rfl

/-- No byte value stands deeper than 57 in the finished tree (R158). -/
theorem depth_le_of_mem_hufDepths {F : Table Word} {m : Byte × Nat} (h : m ∈ hufDepths F) : m.2 ≤ 57 := by
  rw [hufDepths_eq] at h
  obtain ⟨x, hx, hm⟩ := List.mem_flatMap.1 h
  have hbounded := hufMergeAll_induction (fun _ _ _ => FibBounded.merge) (hufLeaves F).length _ (fibBounded_hufLeaves F)
  have hlt : Nat.fib (m.2 + 2) < Nat.fib 60 :=
    calc Nat.fib (m.2 + 2) ≤ x.weight := hbounded.own x hx m hm
      _ ≤ _ := List.le_sum_of_mem (List.mem_map_of_mem hx)
      _ = ((hufLeaves F).map HufNode.weight).sum := by
        rw [sum_weight_hufMergeAll, ((List.perm_insertionSort _ _).map _).sum_eq]
      _ < Nat.fib 60 := sum_weight_hufLeaves_lt F
  have := (Nat.fib_lt_fib (by omega)).1 hlt
  omega

/-! ### The lengths (R154, R155) -/

theorem huffLengths_of_nil {F : Table Word} (h : present F = []) (v : Byte) : (huffLengths F).get v = 0 := by
  simp [huffLengths, h]

theorem huffLengths_of_singleton {F : Table Word} {u : Byte} (h : present F = [u]) (v : Byte) :
    (huffLengths F).get v = if v = u then 1 else 0 := by simp [huffLengths, h]

/-- No code is longer than 57 bits (R158). -/
theorem huffLengths_le (F : Table Word) (v : Byte) : (huffLengths F).get v ≤ 57 := by
  match hp : present F with
  | [] => simp [huffLengths_of_nil hp]
  | [u] =>
    rw [huffLengths_of_singleton hp]
    split <;> omega
  | u :: w :: us =>
    rw [huffLengths_of_tree (by simp [hp]), Table.get_ofFn]
    cases hd : (hufDepths F).lookup v with
    | none => simp
    | some d => exact depth_le_of_mem_hufDepths (mem_of_lookup_eq_some hd)

/-! ### What HUF.BUILD ends in (R151) -/

/-- The LEN table that HUF.BUILD installs. -/
def builtLengths (F : Table Word) : Table Byte := Table.ofFn fun v => BitVec.ofNat 8 ((huffLengths F).get v)

theorem toNat_get_builtLengths (F : Table Word) (v : Byte) :
    ((builtLengths F).get v).toNat = (huffLengths F).get v := by
  have h := huffLengths_le F v
  rw [builtLengths, Table.get_ofFn, BitVec.toNat_ofNat]
  omega

theorem get_builtLengths_of_singleton {F : Table Word} {u : Byte} (h : present F = [u]) (v : Byte) :
    (builtLengths F).get v = if v = u then 1 else 0 :=
  BitVec.eq_of_toNat_eq (by rw [toNat_get_builtLengths, huffLengths_of_singleton h]; split <;> rfl)

theorem builtLengths_of_nil {F : Table Word} (h : present F = []) : builtLengths F = Table.fill 0 :=
  Table.ext_get fun v => BitVec.eq_of_toNat_eq (by simp [toNat_get_builtLengths, huffLengths_of_nil h])

/-- The state in which HUF.BUILD ends. -/
def hufBuilt (s : State) : State :=
  result 0 (BitVec.ofNat 32 (symbolCount (builtLengths s.freq))) (loadTable (builtLengths s.freq) s)

/-- HUF.BUILD succeeds in every state: the check on the lengths never fails. -/
theorem exec_hufBuild (s : State) : exec .hufBuild s = .next (hufBuilt s) := by
  have hpass : ((huffLengths s.freq).entries.any fun l => decide (maxCodeLen < l)) = false := by
    rw [List.any_eq_false]
    intro l hl
    obtain ⟨v, rfl⟩ := Table.mem_entries.1 hl
    have := huffLengths_le s.freq v
    rw [decide_eq_true_eq, maxCodeLen]
    omega
  dsimp only [exec, execHufBuild]
  rw [hpass]
  rfl

end Sys2Proof.Machine
end

section
/-! The greedy construction of the statements (43_huffman.md R154, R155), which takes the least two nodes out of a list
that stands in any order, gives the depths of the model's, which keeps its nodes in order. -/

namespace Sys2Proof.Machine

open Sys2Proof.Spec

/-! ### Nodes of the statements -/

/-- The node of the statements, whose members carry no depths. -/
def HufNode.toSpec (x : HufNode) : Node := ⟨x.weight, x.key, x.members.map Prod.fst⟩

theorem toSpec_hufMerge (x y : HufNode) :
    (hufMerge x y).toSpec = ⟨x.weight + y.weight, min x.key y.key, x.toSpec.members ++ y.toSpec.members⟩ := by
  simp [HufNode.toSpec, hufMerge, Function.comp_def]

theorem leastNode_spec {N : List Node} {x : Node} (h : leastNode N = some x) : x ∈ N ∧ ∀ z ∈ N, z = x ∨ x.Before z :=
  ⟨List.mem_of_find?_eq_some h, by
    simpa using List.find?_some (p := fun x => N.all fun z => decide (z = x ∨ x.Before z)) h⟩

/-- The least node is the one that comes before all others, wherever it stands in the list (R154). -/
theorem leastNode_of_perm {N M : List Node} {x : Node} (hperm : N.Perm (x :: M)) (hx : ∀ z ∈ M, x.Before z) :
    leastNode N = some x := by
  have hleast : ∀ z ∈ N, z = x ∨ x.Before z := fun z hz => (List.mem_cons.1 (hperm.mem_iff.1 hz)).imp_right (hx z)
  have hxN : x ∈ N := hperm.mem_iff.2 List.mem_cons_self
  cases h : leastNode N with
  | none => simpa using List.find?_eq_none.1 h x hxN (by simpa using hleast)
  | some z =>
    obtain ⟨hzN, hz⟩ := leastNode_spec h
    rcases hleast z hzN with rfl | hxz
    · rfl
    · rcases hz x hxN with rfl | hzx
      · rfl
      · unfold Node.Before at hxz hzx
        omega

/-- A byte value below no node gets depth 0. -/
theorem mergeDepth_of_notMem {v : Byte} (n : Nat) {N : List Node} (h : ∀ x ∈ N, v ∉ x.members) :
    mergeDepth n N v = 0 := by
  induction n generalizing N with
  | zero => rfl
  | succ n ih =>
    rw [mergeDepth]
    split
    · rfl
    next x hx =>
    split
    · rfl
    next y hy =>
    have hvx := h x (leastNode_spec hx).1
    have hvy := h y (List.mem_of_mem_erase (leastNode_spec hy).1)
    rw [if_neg (by simp [hvx, hvy]), ih]
    intro z hz
    rcases List.mem_cons.1 hz with rfl | hz
    · simp [hvx, hvy]
    · exact h z (List.mem_of_mem_erase (List.mem_of_mem_erase hz))

/-! ### The two constructions in step -/

/-- The model's list of nodes: in order, no two keys and no two byte values the same. -/
structure HufOrdered (ns : List HufNode) : Prop where
  sorted : ns.Pairwise HufNode.le
  keys : (ns.map HufNode.key).Nodup
  symbols : (nodeSymbols ns).Nodup

/-- The first node comes before all others in the strict order of the statements. -/
theorem HufOrdered.head_before {x : HufNode} {ns : List HufNode} (h : HufOrdered (x :: ns)) :
    ∀ z ∈ ns.map HufNode.toSpec, x.toSpec.Before z := by
  intro z hz
  obtain ⟨y, hy, rfl⟩ := List.mem_map.1 hz
  have hle : x.le y := (List.pairwise_cons.1 h.sorted).1 y hy
  have hkey : x.key ≠ y.key := fun e => (List.nodup_cons.1 h.keys).1 (e ▸ List.mem_map_of_mem hy)
  unfold HufNode.le at hle
  simp only [Node.Before, HufNode.toSpec]
  omega

theorem HufOrdered.tail {x : HufNode} {ns : List HufNode} (h : HufOrdered (x :: ns)) : HufOrdered ns where
  sorted := (List.pairwise_cons.1 h.sorted).2
  keys := (List.nodup_cons.1 h.keys).2
  symbols := by
    have hsymbols := h.symbols
    rw [nodeSymbols, List.flatMap_cons, List.map_append] at hsymbols
    exact hsymbols.of_append_right

theorem HufOrdered.merge {x y : HufNode} {ns : List HufNode} (h : HufOrdered (x :: y :: ns)) :
    HufOrdered (List.orderedInsert HufNode.le (hufMerge x y) ns) := by
  have hperm := List.perm_orderedInsert HufNode.le (hufMerge x y) ns
  refine ⟨pairwise_orderedInsert_hufNode _ h.tail.tail.sorted, ?_, ?_⟩
  · have hkeys := h.keys
    simp only [List.map_cons, List.nodup_cons, List.mem_cons, not_or] at hkeys
    obtain ⟨⟨-, hx⟩, hy, hns⟩ := hkeys
    rw [(hperm.map _).nodup_iff, List.map_cons, List.nodup_cons, key_hufMerge]
    exact ⟨by rcases min_choice x.key y.key with e | e <;> rwa [e], hns⟩
  · rw [(nodeSymbols_perm hperm).nodup_iff, nodeSymbols_hufMerge]
    exact h.symbols

theorem nodeSymbols_hufLeaves (F : Table Word) : nodeSymbols (hufLeaves F) = present F := by
  simp [nodeSymbols, hufLeaves, hufLeaf, List.flatMap_map, ← List.map_eq_flatMap, Function.comp_def]

theorem hufOrdered_hufLeaves (F : Table Word) : HufOrdered ((hufLeaves F).insertionSort HufNode.le) := by
  have hperm := List.perm_insertionSort HufNode.le (hufLeaves F)
  refine ⟨pairwise_insertionSort_hufNode _, ?_, ?_⟩
  · have hkeys : (hufLeaves F).map HufNode.key = (present F).map BitVec.toNat := by simp [hufLeaves, hufLeaf]
    rw [(hperm.map _).nodup_iff, hkeys]
    exact (Table.support_nodup F).map fun _ _ => BitVec.eq_of_toNat_eq
  · rw [(nodeSymbols_perm hperm).nodup_iff, nodeSymbols_hufLeaves]
    exact Table.support_nodup F

/-- One merge puts a byte value one deeper exactly where the statements count it (R154). -/
theorem mem_members_merge {x y : HufNode} {ns : List HufNode} (h : (nodeSymbols (x :: y :: ns)).Nodup)
    {v : Byte} {d : Nat} (hv : (v, d) ∈ (x :: y :: ns).flatMap HufNode.members) :
    (v, d + if v ∈ x.toSpec.members ++ y.toSpec.members then 1 else 0)
      ∈ (hufMerge x y :: ns).flatMap HufNode.members := by
  rw [List.flatMap_cons, List.flatMap_cons, ← List.append_assoc] at hv
  rw [List.flatMap_cons, List.mem_append]
  rcases List.mem_append.1 hv with hv | hv
  · have hmem : v ∈ x.toSpec.members ++ y.toSpec.members := by
      simpa [HufNode.toSpec] using List.mem_map_of_mem (f := Prod.fst) hv
    rw [if_pos hmem]
    exact .inl (mem_members_hufMerge.2 ⟨d, hv, rfl⟩)
  · have hnot : v ∉ x.toSpec.members ++ y.toSpec.members := fun hmem => by
      rw [nodeSymbols, List.flatMap_cons, List.flatMap_cons, ← List.append_assoc, List.map_append] at h
      exact List.disjoint_of_nodup_append h (by simpa [HufNode.toSpec] using hmem) (List.mem_map_of_mem hv)
    rw [if_neg hnot]
    exact .inr hv

/-- The model's construction puts a byte value deeper by what the statements' construction of the same nodes counts. -/
theorem mem_hufMergeAll (n : Nat) (ns : List HufNode) (h : HufOrdered ns) {N : List Node}
    (hperm : N.Perm (ns.map HufNode.toSpec)) {v : Byte} {d : Nat} (hv : (v, d) ∈ ns.flatMap HufNode.members) :
    (v, d + mergeDepth n N v) ∈ (hufMergeAll n ns).flatMap HufNode.members := by
  induction n, ns using hufMergeAll.induct generalizing N d with
  | case1 n x y ns ih =>
    have hx : leastNode N = some x.toSpec := leastNode_of_perm hperm h.head_before
    have herase : (N.erase x.toSpec).Perm (y.toSpec :: ns.map HufNode.toSpec) := by simpa using hperm.erase x.toSpec
    have hy : leastNode (N.erase x.toSpec) = some y.toSpec := leastNode_of_perm herase h.tail.head_before
    have hinsert := List.perm_orderedInsert HufNode.le (hufMerge x y) ns
    rw [hufMergeAll, mergeDepth]
    simp only [hx, hy]
    rw [← Nat.add_assoc]
    refine ih h.merge ?_ ((hinsert.flatMap_right _).mem_iff.2 (mem_members_merge h.symbols hv))
    refine .trans ?_ (hinsert.map _).symm
    rw [List.map_cons, toSpec_hufMerge]
    exact .cons _ (by simpa using herase.erase y.toSpec)
  | case2 n ns hstop =>
    have hzero : mergeDepth n N v = 0 := by
      match n, ns, hstop with
      | 0, _, _ => rfl
      | n + 1, [], _ => simp at hv
      | n + 1, [x], _ => simp [mergeDepth, List.perm_singleton.1 hperm, leastNode]
      | n + 1, x :: y :: ns, hstop => exact (hstop n x y ns rfl rfl).elim
    rw [hzero, hufMergeAll]
    · exact hv
    · exact hstop

/-! ### The lengths -/

/-- The nodes that the statements' construction begins with (R154). -/
def specLeaves (F : Table Word) : List Node := (present F).map fun u => ⟨(F.get u).toNat, u.toNat, [u]⟩

/-- The length of the statements (R154, R155) in terms of the byte values that occur. -/
theorem huffLength_eq (F : Table Word) (v : Byte) :
    huffLength F v
      = if (present F).length = 1 then (if v ∈ present F then 1 else 0)
        else mergeDepth (present F).length (specLeaves F) v := by
  have hpresent : present F = allBytes.filter fun u => 0 < (F.get u).toNat := by
    simp [present, Table.support_eq, toNat_pos_iff]
  rw [specLeaves, hpresent]
  rfl

/-- Both constructions begin with the same nodes. -/
theorem specLeaves_perm (F : Table Word) :
    (specLeaves F).Perm (((hufLeaves F).insertionSort HufNode.le).map HufNode.toSpec) := by
  have hleaves : specLeaves F = (hufLeaves F).map HufNode.toSpec := by
    simp [specLeaves, hufLeaves, hufLeaf, HufNode.toSpec]
  rw [hleaves]
  exact (List.perm_insertionSort _ _).symm.map _

/-- The depth in the model's finished tree is the one the statements count. -/
theorem lookup_hufDepths {F : Table Word} {v : Byte} (hv : v ∈ present F) :
    (hufDepths F).lookup v = some (mergeDepth (present F).length (specLeaves F) v) := by
  have hnodup : ((hufDepths F).map Prod.fst).Nodup :=
    (hufDepths_tree F (List.ne_nil_of_mem hv)).2.nodup_iff.2 (Table.support_nodup F)
  have hleaf : (v, 0) ∈ ((hufLeaves F).insertionSort HufNode.le).flatMap HufNode.members :=
    List.mem_flatMap.2 ⟨hufLeaf v (F.get v).toNat, (List.mem_insertionSort _).2 (List.mem_map_of_mem hv),
      List.mem_singleton_self _⟩
  have hdepth := mem_hufMergeAll (hufLeaves F).length _ (hufOrdered_hufLeaves F) (specLeaves_perm F) hleaf
  rw [← hufDepths_eq, Nat.zero_add, hufLeaves, List.length_map] at hdepth
  exact lookup_of_mem_of_nodup hnodup hdepth

/-- A byte value that does not occur has depth 0 in both constructions. -/
theorem lookup_hufDepths_of_notMem {F : Table Word} {v : Byte} (hne : present F ≠ []) (hv : v ∉ present F) :
    (hufDepths F).lookup v = none ∧ mergeDepth (present F).length (specLeaves F) v = 0 := by
  have hnone : v ∉ (hufDepths F).map Prod.fst := fun h => hv ((hufDepths_tree F hne).2.mem_iff.1 h)
  refine ⟨lookup_eq_none_of_notMem hnone, mergeDepth_of_notMem _ fun x hx => ?_⟩
  obtain ⟨u, hu, rfl⟩ := List.mem_map.1 hx
  rw [List.mem_singleton]
  rintro rfl
  exact hv hu

/-- The model's lengths are those of the statements (R154, R155). -/
theorem get_huffLengths_eq_huffLength (F : Table Word) (v : Byte) : (huffLengths F).get v = huffLength F v := by
  rw [huffLength_eq]
  match hp : present F with
  | [] => simp [huffLengths_of_nil hp, mergeDepth]
  | [u] => simp [huffLengths_of_singleton hp]
  | u :: w :: us =>
    rw [← hp, if_neg (by simp [hp]), huffLengths_of_tree (by simp [hp]), Table.get_ofFn]
    by_cases hv : v ∈ present F
    · rw [lookup_hufDepths hv, Option.getD_some]
    · obtain ⟨hnone, hzero⟩ := lookup_hufDepths_of_notMem (by simp [hp]) hv
      rw [hnone, hzero, Option.getD_none]

end Sys2Proof.Machine
end

section
/-! The canonical code (43_huffman.md R156, R158): along the byte values in canonical order a code is a sum over those
before it, so in a complete table the codes fit their lengths and none begins with another. -/

namespace Sys2Proof.Machine

open Sys2Proof.Spec

/-! ### The canonical order -/

/-- The coded byte values, in the order of the canonical code (R156). -/
def canonOrder (lens : Table Byte) : List Byte := (coded lens).insertionSort (canonLe lens)

theorem canonOrder_perm (lens : Table Byte) : (canonOrder lens).Perm (coded lens) := List.perm_insertionSort _ _

@[simp] theorem mem_canonOrder {lens : Table Byte} {v : Byte} : v ∈ canonOrder lens ↔ lens.get v ≠ 0 := by
  rw [(canonOrder_perm lens).mem_iff, mem_coded]

/-- The canonical order is the strict one of the statements. -/
theorem canonOrder_pairwise (lens : Table Byte) : (canonOrder lens).Pairwise (CanonBefore lens) := by
  have hle : (canonOrder lens).Pairwise (canonLe lens) :=
    haveI : Std.Total (canonLe lens) := ⟨fun u v => by unfold canonLe; omega⟩
    haveI : IsTrans Byte (canonLe lens) := ⟨fun u v w => by unfold canonLe; omega⟩
    List.pairwise_insertionSort _ _
  have hnodup : (canonOrder lens).Nodup := (canonOrder_perm lens).nodup_iff.2 (Table.support_nodup lens)
  refine (hle.and hnodup).imp fun {u v} ⟨h, hne⟩ => ?_
  have hnat : u.toNat ≠ v.toNat := fun e => hne (BitVec.eq_of_toNat_eq e)
  unfold canonLe at h
  unfold CanonBefore
  omega

theorem length_le_of_canonBefore {lens : Table Byte} {u v : Byte} (h : CanonBefore lens u v) :
    (lens.get u).toNat ≤ (lens.get v).toNat := by
  unfold CanonBefore at h
  omega

theorem not_canonBefore {lens : Table Byte} {u v : Byte} (h : CanonBefore lens u v) : ¬ CanonBefore lens v u := by
  unfold CanonBefore at h ⊢
  omega

theorem canonBefore_irrefl (lens : Table Byte) (v : Byte) : ¬ CanonBefore lens v v := fun h => not_canonBefore h h

/-- The place of a byte value that comes before another. -/
theorem exists_canonOrder_eq {lens : Table Byte} {u v : Byte} (hu : lens.get u ≠ 0) (hv : lens.get v ≠ 0)
    (huv : CanonBefore lens u v) : ∃ pre mid post, canonOrder lens = pre ++ u :: (mid ++ v :: post) := by
  obtain ⟨pre, rest, h⟩ := List.append_of_mem (mem_canonOrder.2 hu)
  obtain ⟨-, -, hbefore⟩ := List.pairwise_append.1 (h ▸ canonOrder_pairwise lens)
  have hmem : v ∈ pre ++ u :: rest := h ▸ mem_canonOrder.2 hv
  have hpre : v ∉ pre := fun hpre => not_canonBefore huv (hbefore v hpre u List.mem_cons_self)
  have hne : v ≠ u := fun e => canonBefore_irrefl lens u (e ▸ huv)
  obtain ⟨mid, post, rfl⟩ := List.append_of_mem
    (((List.mem_append.1 hmem).resolve_left hpre |> List.mem_cons.1).resolve_left hne)
  exact ⟨pre, mid, post, h⟩

/-- The byte values before one in canonical order are those that come before it. -/
theorem filter_canonBefore_perm {lens : Table Byte} {pre post : List Byte} {v : Byte}
    (h : canonOrder lens = pre ++ v :: post) :
    ((coded lens).filter fun u => CanonBefore lens u v).Perm pre := by
  obtain ⟨-, hpost, hbefore⟩ := List.pairwise_append.1 (h ▸ canonOrder_pairwise lens)
  have hpre : pre.filter (fun u => CanonBefore lens u v) = pre :=
    List.filter_eq_self.2 fun u hu => decide_eq_true (hbefore u hu v List.mem_cons_self)
  have hrest : (v :: post).filter (fun u => CanonBefore lens u v) = [] := by
    refine List.filter_eq_nil_iff.2 fun u hu => ?_
    rw [decide_eq_true_eq]
    rcases List.mem_cons.1 hu with rfl | hu
    · exact canonBefore_irrefl lens u
    · exact not_canonBefore ((List.pairwise_cons.1 hpost).1 u hu)
  have hperm := (canonOrder_perm lens).symm.filter fun u => decide (CanonBefore lens u v)
  rwa [h, List.filter_append, hpre, hrest, List.append_nil] at hperm

/-! ### Codes along the order -/

/-- The code space that the byte values `us` take up, in units of codes of length `l`. -/
def codeSpace (lens : Table Byte) (l : Nat) (us : List Byte) : Nat := (us.map fun u => 2 ^ (l - (lens.get u).toNat)).sum

theorem codeSpace_append (lens : Table Byte) (l : Nat) (us ws : List Byte) :
    codeSpace lens l (us ++ ws) = codeSpace lens l us + codeSpace lens l ws := by simp [codeSpace]

theorem codeSpace_cons (lens : Table Byte) (l : Nat) (u : Byte) (us : List Byte) :
    codeSpace lens l (u :: us) = 2 ^ (l - (lens.get u).toNat) + codeSpace lens l us := by simp [codeSpace]

theorem codeSpace_perm {lens : Table Byte} {l : Nat} {us ws : List Byte} (h : us.Perm ws) :
    codeSpace lens l us = codeSpace lens l ws := (h.map _).sum_eq

/-- Code space in units of longer codes. -/
theorem codeSpace_mul_pow {lens : Table Byte} {l l' : Nat} {us : List Byte} (hl : l ≤ l')
    (h : ∀ u ∈ us, (lens.get u).toNat ≤ l) : codeSpace lens l us * 2 ^ (l' - l) = codeSpace lens l' us := by
  rw [codeSpace, ← List.sum_map_mul_right, codeSpace]
  congr 1
  refine List.map_congr_left fun u hu => ?_
  have := h u hu
  rw [← pow_add]
  congr 1
  omega

theorem map_fst_canonFrom (lens : Table Byte) (c l : Nat) (vs : List Byte) :
    (canonFrom lens c l vs).map Prod.fst = vs := by
  induction vs generalizing c l with
  | nil => rfl
  | cons v vs ih => simp [canonFrom, ih]

/-- After a code `c` of length `l`, the code of `v` is `c + 1` in units of its length, and the space of the byte values
between. -/
theorem mem_canonFrom {lens : Table Byte} {c l : Nat} {pre post : List Byte} {v : Byte}
    (hsorted : (pre ++ v :: post).Pairwise (CanonBefore lens)) (hl : ∀ u ∈ pre ++ v :: post, l ≤ (lens.get u).toNat) :
    (v, (c + 1) * 2 ^ ((lens.get v).toNat - l) + codeSpace lens (lens.get v).toNat pre)
      ∈ canonFrom lens c l (pre ++ v :: post) := by
  induction pre generalizing c l with
  | nil => simp [canonFrom, codeSpace, Nat.shiftLeft_eq]
  | cons u pre ih =>
    rw [List.cons_append, List.pairwise_cons] at hsorted
    obtain ⟨hu, hsorted⟩ := hsorted
    have hlu := hl u (by simp)
    have huv := length_le_of_canonBefore (hu v (by simp))
    have hcode : (c + 1) * 2 ^ ((lens.get v).toNat - l) + codeSpace lens (lens.get v).toNat (u :: pre)
        = ((c + 1) <<< ((lens.get u).toNat - l) + 1) * 2 ^ ((lens.get v).toNat - (lens.get u).toNat)
          + codeSpace lens (lens.get v).toNat pre := by
      rw [codeSpace_cons, Nat.shiftLeft_eq, Nat.add_one_mul (_ * _), Nat.mul_assoc, ← pow_add,
        show (lens.get u).toNat - l + ((lens.get v).toNat - (lens.get u).toNat) = (lens.get v).toNat - l by omega,
        Nat.add_assoc]
    rw [List.cons_append, canonFrom, hcode]
    exact List.mem_cons_of_mem _ (ih hsorted fun w hw => length_le_of_canonBefore (hu w hw))

theorem map_fst_canonCodes (lens : Table Byte) : (canonCodes lens).map Prod.fst = canonOrder lens := by
  unfold canonCodes
  rw [← canonOrder]
  cases canonOrder lens with
  | nil => rfl
  | cons v vs => simp [map_fst_canonFrom]

/-- The code of a byte value is the code space of those before it (R156). -/
theorem lookup_canonCodes {lens : Table Byte} {pre post : List Byte} {v : Byte}
    (h : canonOrder lens = pre ++ v :: post) :
    (canonCodes lens).lookup v = some (codeSpace lens (lens.get v).toNat pre) := by
  have hnodup : ((canonCodes lens).map Prod.fst).Nodup := by
    rw [map_fst_canonCodes, (canonOrder_perm lens).nodup_iff]
    exact Table.support_nodup lens
  refine lookup_of_mem_of_nodup hnodup ?_
  have hsorted := h ▸ canonOrder_pairwise lens
  unfold canonCodes
  rw [← canonOrder, h]
  match pre, hsorted with
  | [], _ => simp [codeSpace]
  | u :: pre, hsorted =>
    rw [List.cons_append, List.pairwise_cons] at hsorted
    obtain ⟨hu, hsorted⟩ := hsorted
    have hmem := mem_canonFrom (c := 0) hsorted fun w hw => length_le_of_canonBefore (hu w hw)
    rw [Nat.zero_add, Nat.one_mul, ← codeSpace_cons] at hmem
    exact List.mem_cons_of_mem _ hmem

/-- A byte value without a code has CODE 0 (R156). -/
theorem get_canon_of_zero {lens : Table Byte} {v : Byte} (h : lens.get v = 0) : (canon lens).get v = 0 := by
  have hnone : (canonCodes lens).lookup v = none := lookup_eq_none_of_notMem (by simp [map_fst_canonCodes, h])
  simp [canon, hnone]

/-- The code of a lone byte value is 0 (R155). -/
theorem get_canon_of_singleton {lens : Table Byte} {v : Byte} (h : coded lens = [v]) (u : Byte) :
    (canon lens).get u = 0 := by
  by_cases hu : lens.get u = 0
  · exact get_canon_of_zero hu
  · obtain rfl : u = v := List.mem_singleton.1 (h ▸ mem_coded.2 hu)
    have horder : canonOrder lens = [] ++ u :: [] := List.perm_singleton.1 (h ▸ canonOrder_perm lens)
    simp [canon, lookup_canonCodes horder, codeSpace]

/-! ### Complete tables -/

/-- The Kraft sum of a complete table is at most 1 (it is 1/2 for a lone byte value), and no length exceeds 64. -/
theorem CompleteTable.kraft_le {lens : Table Byte} (h : CompleteTable lens) :
    codeSpace lens 64 (coded lens) ≤ 2 ^ 64 ∧ ∀ v ∈ coded lens, (lens.get v).toNat ≤ 64 := by
  rcases h with hnil | ⟨v, hv, hone⟩ | ⟨-, hmax, hsum⟩
  · simp [hnil, codeSpace]
  · simp [hv, hone, codeSpace]
  · exact ⟨hsum.le, fun v _ => hmax v⟩

/-- In a complete table the code space before a byte value leaves room for its code (R158). -/
theorem codeSpace_lt {lens : Table Byte} (hcomplete : CompleteTable lens) {pre post : List Byte} {v : Byte}
    (h : canonOrder lens = pre ++ v :: post) : codeSpace lens (lens.get v).toNat pre < 2 ^ (lens.get v).toNat := by
  obtain ⟨hkraft, hmax⟩ := hcomplete.kraft_le
  have hv : (lens.get v).toNat ≤ 64 := hmax v ((canonOrder_perm lens).mem_iff.1 (by simp [h]))
  have hsorted := h ▸ canonOrder_pairwise lens
  have hle : ∀ u ∈ pre, (lens.get u).toNat ≤ (lens.get v).toNat := fun u hu =>
    length_le_of_canonBefore ((List.pairwise_append.1 hsorted).2.2 u hu v (by simp))
  rw [← codeSpace_perm (canonOrder_perm lens), h, codeSpace_append, codeSpace_cons, ← codeSpace_mul_pow hv hle]
    at hkraft
  refine Nat.lt_of_mul_lt_mul_right (a := 2 ^ (64 - (lens.get v).toNat)) ?_
  rw [← pow_add, Nat.add_sub_cancel' hv]
  have : 0 < 2 ^ (64 - (lens.get v).toNat) := by positivity
  omega

/-- In a complete table CODE holds the code unabridged. -/
theorem toNat_get_canon {lens : Table Byte} (hcomplete : CompleteTable lens) {pre post : List Byte} {v : Byte}
    (h : canonOrder lens = pre ++ v :: post) : ((canon lens).get v).toNat = codeSpace lens (lens.get v).toNat pre := by
  have hv : (lens.get v).toNat ≤ 64 := hcomplete.kraft_le.2 v ((canonOrder_perm lens).mem_iff.1 (by simp [h]))
  have hfits : codeSpace lens (lens.get v).toNat pre < 2 ^ 64 :=
    (codeSpace_lt hcomplete h).trans_le (Nat.pow_le_pow_right (by norm_num) hv)
  rw [canon, Table.get_ofFn, lookup_canonCodes h, Option.getD_some, BitVec.toNat_ofNat, Nat.mod_eq_of_lt hfits]

theorem toNat_get_canon_lt {lens : Table Byte} (hcomplete : CompleteTable lens) (v : Byte) :
    ((canon lens).get v).toNat < 2 ^ (lens.get v).toNat := by
  by_cases hv : lens.get v = 0
  · simp [get_canon_of_zero hv, hv]
  · obtain ⟨pre, post, h⟩ := List.append_of_mem (mem_canonOrder.2 hv)
    rw [toNat_get_canon hcomplete h]
    exact codeSpace_lt hcomplete h

/-- A later code lies beyond every code that begins with an earlier one. -/
theorem canon_lt_of_canonBefore {lens : Table Byte} (hcomplete : CompleteTable lens) {u v : Byte}
    (hu : lens.get u ≠ 0) (hv : lens.get v ≠ 0) (huv : CanonBefore lens u v) :
    (((canon lens).get u).toNat + 1) * 2 ^ ((lens.get v).toNat - (lens.get u).toNat)
      ≤ ((canon lens).get v).toNat := by
  obtain ⟨pre, mid, post, h⟩ := exists_canonOrder_eq hu hv huv
  have hv' : canonOrder lens = (pre ++ u :: mid) ++ v :: post := by simp [h]
  obtain ⟨-, -, hbefore⟩ := List.pairwise_append.1 (h ▸ canonOrder_pairwise lens)
  have hpre : ∀ w ∈ pre, (lens.get w).toNat ≤ (lens.get u).toNat := fun w hw =>
    length_le_of_canonBefore (hbefore w hw u List.mem_cons_self)
  rw [toNat_get_canon hcomplete h, toNat_get_canon hcomplete hv', codeSpace_append, codeSpace_cons, Nat.add_one_mul,
    codeSpace_mul_pow (length_le_of_canonBefore huv) hpre]
  omega

end Sys2Proof.Machine
end

section
/-! What the commands of the table unit end in (43_huffman.md R150, R152, R153, R157): the counts of a block, the
serialized table written and read. -/

namespace Sys2Proof.Machine

open Sys2Proof.Spec

/-- An error completion by the codes of the first failing check (60_exceptions.md R203, R210). -/
theorem elim_firstError_of_codes {o : Byte} {cs : List Check} {c d : Nat}
    (h : (firstError cs).map CmdError.codes = some (c, d)) (s t : State) :
    (firstError cs).elim t (fun e => raiseError o e s) = errorState o.toNat c d s := by
  obtain ⟨e, he, hcodes⟩ := Option.map_eq_some_iff.1 h
  rw [he, Option.elim_some, raiseError_of_codes hcodes]

/-! ### HUF.COUNT (R150) -/

theorem toNat_get_frequencies {S : List Byte} (h : S.length < 2 ^ 32) (v : Byte) :
    ((frequencies S).get v).toNat = S.count v := by
  rw [frequencies, Table.get_ofFn, BitVec.toNat_ofNat]
  exact Nat.mod_eq_of_lt (lt_of_le_of_lt List.count_le_length h)

/-- The number of byte values with a count is the number of distinct byte values of the block (R150). -/
theorem length_present_frequencies {S : List Byte} (h : S.length < 2 ^ 32) :
    (present (frequencies S)).length = S.toFinset.card := by
  have hset : (present (frequencies S)).toFinset = S.toFinset := by
    ext v
    rw [List.mem_toFinset, mem_present, ← toNat_pos_iff, toNat_get_frequencies h, List.count_pos_iff, List.mem_toFinset]
  rw [← hset]
  exact (List.toFinset_card_of_nodup (Table.support_nodup _)).symm

/-- The counts of the byte values that a block can hold add up to its length (R150). -/
theorem sum_count_of_subset {l S : List Byte} (hl : l.Nodup) (h : ∀ v ∈ S, v ∈ l) :
    (l.map fun v => S.count v).sum = S.length := by
  rw [← List.sum_toFinset _ hl]
  simpa using Multiset.sum_count_eq_card (m := (S : Multiset Byte)) fun v hv => List.mem_toFinset.2 (h v hv)

/-- The state in which HUF.COUNT ends when its checks pass. -/
def hufCounted (s : State) : State :=
  result s.srcLen (BitVec.ofNat 32 (present (frequencies (srcBytes s))).length)
    { s with freq := frequencies (srcBytes s) }

/-- The first failing check decides what HUF.COUNT ends in. -/
theorem exec_hufCount_eq (s : State) :
    exec .hufCount s = .next ((firstError [checkSrcSize s, checkSrc s]).elim (hufCounted s) fun e =>
      raiseError (opcode .hufCount) e s) := by
  dsimp only [exec, execHufCount]
  cases firstError [checkSrcSize s, checkSrc s] with
  | some e => rfl
  | none => rfl

theorem codes_hufCount (s : State) :
    (firstError [checkSrcSize s, checkSrc s]).map CmdError.codes = commandError s .hufCount := by
  rw [codes_firstError_checkSrcSize, checkSrc, codes_firstError_cons, commandError]
  simp only [Bool.not_eq_true', ← Bool.not_eq_true, inBounds_iff_inBuf]
  rfl

theorem exec_hufCount_of_none {s : State} (h : commandError s .hufCount = none) :
    exec .hufCount s = .next (hufCounted s) := by
  rw [← codes_hufCount, Option.map_eq_none_iff] at h
  rw [exec_hufCount_eq, h, Option.elim_none]

theorem exec_hufCount_of_some {s : State} {c d : Nat} (h : commandError s .hufCount = some (c, d)) :
    exec .hufCount s = .next (errorState 0x30 c d s) := by
  rw [exec_hufCount_eq, elim_firstError_of_codes ((codes_hufCount s).trans h)]
  rfl

/-! ### HUF.WTABLE (R152) -/

/-- The serialized table of the statements (30_encoding.md R97). -/
theorem clt_eq (lens : Table Byte) : clt lens = BitVec.ofNat 8 (symbolCount lens - 1) :: tablePairs lens := by
  rw [clt, symbols_eq_coded]
  rfl

/-- The checks of HUF.WTABLE. -/
def hufWtableChecks (s : State) : List Check :=
  [checkDst s, (decide (s.nsym.toNat ≠ 0) && (checkCap s (1 + 2 * s.nsym.toNat)).1, ⟨.dstOverflow, 0⟩)]

/-- The state in which HUF.WTABLE ends when its checks pass. -/
def hufWritten (s : State) : State :=
  if s.nsym.toNat = 0 then result 0 0 s
  else result (BitVec.ofNat 32 (1 + 2 * s.nsym.toNat)) (BitVec.ofNat 32 s.nsym.toNat)
    (dstWrite s (BitVec.ofNat 8 (s.nsym.toNat - 1) :: tablePairs s.len))

/-- The first failing check decides what HUF.WTABLE ends in. -/
theorem exec_hufWtable_eq (s : State) :
    exec .hufWtable s = .next ((firstError (hufWtableChecks s)).elim (hufWritten s) fun e =>
      raiseError (opcode .hufWtable) e s) := by
  dsimp only [exec, execHufWtable]
  rw [← hufWtableChecks]
  cases firstError (hufWtableChecks s) with
  | some e => rfl
  | none =>
    exact (apply_ite Host.Outcome.next _ _ _).symm

theorem codes_hufWtable (s : State) :
    (firstError (hufWtableChecks s)).map CmdError.codes = commandError s .hufWtable := by
  rw [hufWtableChecks, checkDst, codes_firstError_cons, codes_firstError_cons, commandError]
  simp only [Bool.not_eq_true', ← Bool.not_eq_true, inBounds_iff_inBuf, checkCap, Bool.and_eq_true, decide_eq_true_eq]
  by_cases hK : s.nsym.toNat = 0
  · simp [hK, CmdError.codes, ErrClass.code]
  · simp [hK, CmdError.codes, ErrClass.code]

theorem exec_hufWtable_of_none {s : State} (h : commandError s .hufWtable = none) :
    exec .hufWtable s = .next (hufWritten s) := by
  rw [← codes_hufWtable, Option.map_eq_none_iff] at h
  rw [exec_hufWtable_eq, h, Option.elim_none]

theorem exec_hufWtable_of_some {s : State} {c d : Nat} (h : commandError s .hufWtable = some (c, d)) :
    exec .hufWtable s = .next (errorState 0x32 c d s) := by
  rw [exec_hufWtable_eq, elim_firstError_of_codes ((codes_hufWtable s).trans h)]
  rfl

/-! ### The pairs of a serialized table (R157) -/

/-- The bytes of the pairs (byte value, length) of a serialized table (30_encoding.md R97). -/
def pairBytes (ps : List (Byte × Byte)) : List Byte := ps.flatMap fun p => [p.1, p.2]

@[simp] theorem length_pairBytes (ps : List (Byte × Byte)) : (pairBytes ps).length = 2 * ps.length := by
  simp [pairBytes, mul_comm]

/-- Pairs that the reader accepts: byte values rising from `least` on, lengths 1 to 64 (R157). -/
def PairsFrom (least : Nat) (ps : List (Byte × Byte)) : Prop :=
  ps.Pairwise (fun p q => p.1.toNat < q.1.toNat) ∧ ∀ p ∈ ps, least ≤ p.1.toNat ∧ 0 < p.2.toNat ∧ p.2.toNat ≤ 64

theorem pairsFrom_cons {least : Nat} {p : Byte × Byte} {ps : List (Byte × Byte)} (h : PairsFrom least (p :: ps)) :
    (least ≤ p.1.toNat ∧ 0 < p.2.toNat ∧ p.2.toNat ≤ 64) ∧ PairsFrom (p.1.toNat + 1) ps := by
  obtain ⟨hpair, hall⟩ := h
  rw [List.pairwise_cons] at hpair
  rw [List.forall_mem_cons] at hall
  exact ⟨hall.1, hpair.2, fun q hq => ⟨hpair.1 q hq, (hall.2 q hq).2⟩⟩

/-- The least byte value that the reader takes after the pairs `ps`. -/
def leastAfter (least : Nat) (ps : List (Byte × Byte)) : Nat := ps.foldl (fun _ p => p.1.toNat + 1) least

theorem leastAfter_cons (least : Nat) (p : Byte × Byte) (ps : List (Byte × Byte)) :
    leastAfter least (p :: ps) = leastAfter (p.1.toNat + 1) ps := rfl

/-- A byte value is below the least one taken exactly when a pair before has one that is not below it. -/
theorem lt_leastAfter_iff {least : Nat} {ps : List (Byte × Byte)} (h : PairsFrom least ps) (x : Nat) :
    x < leastAfter least ps ↔ x < least ∨ ∃ p ∈ ps, x ≤ p.1.toNat := by
  induction ps generalizing least with
  | nil => simp [leastAfter]
  | cons p ps ih =>
    obtain ⟨⟨hleast, -⟩, hps⟩ := pairsFrom_cons h
    rw [leastAfter_cons, ih hps]
    simp only [List.mem_cons, exists_eq_or_imp]
    rw [← or_assoc]
    refine or_congr_left ?_
    omega

/-- The reader takes good pairs one after the other and goes on behind them. -/
theorem readPairs_append {least : Nat} {ps : List (Byte × Byte)} (h : PairsFrom least ps) (k : Nat) (B : List Byte) :
    readPairs (ps.length + k) least (pairBytes ps ++ B) = (readPairs k (leastAfter least ps) B).map (ps ++ ·) := by
  induction ps generalizing least with
  | nil => cases hr : readPairs k least B <;> simp [pairBytes, leastAfter, hr, Except.map]
  | cons p ps ih =>
    obtain ⟨⟨hleast, hpos, hmax⟩, hps⟩ := pairsFrom_cons h
    have hbytes : pairBytes (p :: ps) ++ B = p.1 :: p.2 :: (pairBytes ps ++ B) := rfl
    rw [hbytes, List.length_cons, Nat.add_right_comm, readPairs, if_neg (by omega), if_neg (toNat_pos_iff.1 hpos),
      if_neg (by rw [maxCodeLen]; omega), ih hps, leastAfter_cons]
    cases readPairs k (leastAfter (p.1.toNat + 1) ps) B <;> rfl

/-- The reader reads good pairs back, whatever bytes follow them. -/
theorem readPairs_pairBytes {ps : List (Byte × Byte)} (h : PairsFrom 0 ps) (B : List Byte) :
    readPairs ps.length 0 (pairBytes ps ++ B) = .ok ps := by
  have hread := readPairs_append h 0 B
  simpa [readPairs, Except.map] using hread

/-- A byte value that does not ascend (R157). -/
theorem readPairs_of_lt {k least : Nat} {v l : Byte} {B : List Byte} (h : v.toNat < least) :
    readPairs (k + 1) least (v :: l :: B) = .error 2 := by rw [readPairs, if_pos h]

/-- A length of 0 (R157). -/
theorem readPairs_of_zero {k least : Nat} {v : Byte} {B : List Byte} (h : least ≤ v.toNat) :
    readPairs (k + 1) least (v :: 0 :: B) = .error 3 := by rw [readPairs, if_neg h.not_gt, if_pos rfl]

/-- A length above 64 (R157). -/
theorem readPairs_of_long {k least : Nat} {v l : Byte} {B : List Byte} (h : least ≤ v.toNat) (hl : 64 < l.toNat) :
    readPairs (k + 1) least (v :: l :: B) = .error 4 := by
  have hpos : l ≠ 0 := toNat_pos_iff.1 (Nat.zero_lt_of_lt hl)
  have hlong : maxCodeLen < l.toNat := hl
  rw [readPairs, if_neg h.not_gt, if_neg hpos, if_pos hlong]

/-! ### The lengths of a serialized table (R157) -/

theorem kraftError_singleton {l : Nat} : kraftError [l] = if l ≠ 1 then some 5 else none := rfl

theorem kraftError_of_two_le {ls : List Nat} (h : 2 ≤ ls.length) :
    kraftError ls
      = if 2 ^ 64 < kraftSum ls then some 6 else if kraftSum ls < 2 ^ 64 then some 7 else none := by
  match ls, h with
  | _ :: _ :: _, _ => rfl

theorem kraftSum_map {α : Type} (f : α → Nat) (xs : List α) :
    kraftSum (xs.map f) = (xs.map fun x => 2 ^ (64 - f x)).sum := by
  rw [kraftSum, List.map_map]
  rfl

/-! ### `ReadCLT` (R157) -/

theorem readClt_of_short {B : List Byte} (h : B.length = 0 ∨ B.length < 3 + 2 * (B.getD 0 0).toNat) :
    readClt B = .error 1 := by
  match B, h with
  | [], _ => rfl
  | b :: rest, h =>
    simp only [List.length_cons, List.getD_cons_zero] at h
    rw [readClt, if_pos (by omega)]

theorem readClt_of_readPairs_error {b d : Byte} {rest : List Byte} (hlen : 2 * (b.toNat + 1) ≤ rest.length)
    (h : readPairs (b.toNat + 1) 0 rest = .error d) : readClt (b :: rest) = .error d := by
  simp only [readClt, if_neg hlen.not_gt, h]

theorem readClt_of_readPairs_ok {b : Byte} {rest : List Byte} {ps : List (Byte × Byte)}
    (hlen : 2 * (b.toNat + 1) ≤ rest.length) (h : readPairs (b.toNat + 1) 0 rest = .ok ps) :
    readClt (b :: rest) = (kraftError (ps.map fun p => p.2.toNat)).elim
      (.ok (Table.ofFn fun v => (ps.lookup v).getD 0, b.toNat + 1)) .error := by
  simp only [readClt, if_neg hlen.not_gt, h]
  cases kraftError (ps.map fun p => p.2.toNat) <;> rfl

/-- The first bad pair, behind good ones, decides what the reader answers. -/
theorem readClt_of_badPair {b v l d : Byte} {ps : List (Byte × Byte)} {more : List Byte} (h : PairsFrom 0 ps)
    (hcount : ps.length ≤ b.toNat) (hlen : 2 * (b.toNat + 1) ≤ (pairBytes ps ++ v :: l :: more).length)
    (hbad : ∀ j, readPairs (j + 1) (leastAfter 0 ps) (v :: l :: more) = .error d) :
    readClt (b :: (pairBytes ps ++ v :: l :: more)) = .error d := by
  obtain ⟨j, hj⟩ := Nat.exists_eq_add_of_le hcount
  refine readClt_of_readPairs_error hlen ?_
  rw [hj, Nat.add_assoc, readPairs_append h, hbad]
  rfl

/-- The count byte of a table with 1 to 256 byte values. -/
theorem toNat_ofNat_pred {n : Nat} (hpos : 0 < n) (hmax : n ≤ 256) : (BitVec.ofNat 8 (n - 1)).toNat + 1 = n := by
  rw [BitVec.toNat_ofNat]
  omega

/-- Behind good pairs only the lengths as a whole decide what the reader answers. -/
theorem readClt_pairBytes {ps : List (Byte × Byte)} (h : PairsFrom 0 ps) (hne : ps ≠ []) (hmax : ps.length ≤ 256)
    (junk : List Byte) :
    readClt (BitVec.ofNat 8 (ps.length - 1) :: (pairBytes ps ++ junk))
      = (kraftError (ps.map fun p => p.2.toNat)).elim (.ok (Table.ofFn fun v => (ps.lookup v).getD 0, ps.length))
          .error := by
  have hcount := toNat_ofNat_pred (List.length_pos_of_ne_nil hne) hmax
  rw [readClt_of_readPairs_ok (ps := ps), hcount]
  · rw [hcount, List.length_append, length_pairBytes]
    omega
  · rw [hcount]
    exact readPairs_pairBytes h junk

theorem readClt_of_kraftError {ps : List (Byte × Byte)} {d : Byte} (h : PairsFrom 0 ps) (hne : ps ≠ [])
    (hmax : ps.length ≤ 256) (hkraft : kraftError (ps.map fun p => p.2.toNat) = some d) (junk : List Byte) :
    readClt (BitVec.ofNat 8 (ps.length - 1) :: (pairBytes ps ++ junk)) = .error d := by
  rw [readClt_pairBytes h hne hmax, hkraft, Option.elim_some]

/-! ### The serialized form of a complete table (R158) -/

/-- The pairs of a table, in ascending order of the byte value. -/
def tableEntries (lens : Table Byte) : List (Byte × Byte) := (coded lens).map fun v => (v, lens.get v)

@[simp] theorem length_tableEntries (lens : Table Byte) : (tableEntries lens).length = symbolCount lens := by
  simp [tableEntries, symbolCount]

theorem tablePairs_eq (lens : Table Byte) : tablePairs lens = pairBytes (tableEntries lens) := by
  simp [tablePairs, pairBytes, tableEntries, List.flatMap_map]

theorem pairsFrom_tableEntries {lens : Table Byte} (h : CompleteTable lens) : PairsFrom 0 (tableEntries lens) := by
  refine ⟨List.pairwise_map.2 (Table.support_pairwise lens), fun p hp => ?_⟩
  obtain ⟨v, hv, rfl⟩ := List.mem_map.1 hp
  exact ⟨Nat.zero_le _, toNat_pos_iff.2 (mem_coded.1 hv), h.kraft_le.2 v hv⟩

theorem kraftError_tableEntries {lens : Table Byte} (h : CompleteTable lens) (hne : coded lens ≠ []) :
    kraftError ((tableEntries lens).map fun p => p.2.toNat) = none := by
  have hlengths : (tableEntries lens).map (fun p => p.2.toNat) = (coded lens).map fun v => (lens.get v).toNat := by
    simp [tableEntries]
  rw [hlengths]
  rcases h with hnil | ⟨v, hv, hone⟩ | ⟨htwo, -, hsum⟩
  · exact absurd hnil hne
  · simp [hv, hone, kraftError_singleton]
  · rw [kraftError_of_two_le (by simpa using htwo), kraftSum_map, hsum, if_neg (lt_irrefl _), if_neg (lt_irrefl _)]

theorem ofFn_lookup_tableEntries (lens : Table Byte) :
    (Table.ofFn fun v => ((tableEntries lens).lookup v).getD 0) = lens := by
  have hfst : (tableEntries lens).map Prod.fst = coded lens := by simp [tableEntries, Function.comp_def]
  refine Table.ext_get fun v => ?_
  rw [Table.get_ofFn]
  by_cases hv : lens.get v = 0
  · rw [lookup_eq_none_of_notMem (by simp [hfst, hv]), Option.getD_none, hv]
  · have hmem : (v, lens.get v) ∈ tableEntries lens := List.mem_map.2 ⟨v, mem_coded.2 hv, rfl⟩
    rw [lookup_of_mem_of_nodup (hfst ▸ Table.support_nodup lens) hmem, Option.getD_some]

/-- Reading the serialized form of a complete table gives the table back, whatever bytes follow (R158). -/
theorem readClt_clt {lens : Table Byte} (h : CompleteTable lens) (hne : coded lens ≠ []) (junk : List Byte) :
    readClt (clt lens ++ junk) = .ok (lens, symbolCount lens) := by
  have hentries : tableEntries lens ≠ [] := fun e => hne (List.map_eq_nil_iff.1 e)
  have hmax : (tableEntries lens).length ≤ 256 := length_tableEntries lens ▸ symbolCount_le lens
  rw [clt_eq, List.cons_append, tablePairs_eq, ← length_tableEntries,
    readClt_pairBytes (pairsFrom_tableEntries h) hentries hmax, kraftError_tableEntries h hne, Option.elim_none,
    ofFn_lookup_tableEntries]

/-! ### HUF.RTABLE (R153) -/

/-- A malformed table empties the table and raises INVALID_CODE_TABLE (R153). -/
theorem exec_hufRtable_of_error {s : State} {d : Byte} (hsrc : InBuf s.params s.srcAddr s.srcLen)
    (h : readClt (srcBytes s) = .error d) :
    exec .hufRtable s = .next (errorState 0x33 5 d.toNat
      { s with len := Table.fill 0, code := Table.fill 0, nsym := 0, maxlen := 0 }) := by
  have hempty : loadTable (Table.fill 0) s
      = { s with len := Table.fill 0, code := Table.fill 0, nsym := 0, maxlen := 0 } := by
    simpa [loadTable] using canon_fill_zero
  dsimp only [exec, execHufRtable]
  rw [firstError_checkSrc_of_inBuf hsrc, h, ← hempty]
  exact congrArg _ (raiseError_eq_errorState ..)

/-- A table read is installed (R153). -/
theorem exec_hufRtable_of_ok {s : State} {lens : Table Byte} {K : Nat} (hsrc : InBuf s.params s.srcAddr s.srcLen)
    (h : readClt (srcBytes s) = .ok (lens, K)) :
    exec .hufRtable s = .next (result (BitVec.ofNat 32 (1 + 2 * K)) (BitVec.ofNat 32 K)
      { loadTable lens s with nsym := BitVec.ofNat 32 K }) := by
  dsimp only [exec, execHufRtable]
  rw [firstError_checkSrc_of_inBuf hsrc, h]

end Sys2Proof.Machine
end

section
/-! The Huffman table unit (43_huffman.md R150 to R158). -/

namespace Sys2Proof.Proofs

open Sys2Proof.Machine Sys2Proof.Spec

/-- Settles O37: a code of more than 57 bits needs a total weight that 256 counts of 32 bits do not reach. -/
theorem huffmanDepthBound : Obligations.HuffmanDepthBound :=
  ⟨huffLengths_le, fun s => ⟨_, exec_hufBuild s, rfl⟩⟩

/-- Settles O38: the codes before a byte value take up code space that its own code leaves free. -/
theorem canonicalCodesPrefixFree : Obligations.CanonicalCodesPrefixFree := by
  intro lens hcomplete
  refine ⟨toNat_get_canon_lt hcomplete, fun u v hne hpos hle hbegins => ?_⟩
  have hu : lens.get u ≠ 0 := toNat_pos_iff.1 hpos
  have hv : lens.get v ≠ 0 := toNat_pos_iff.1 (hpos.trans_le hle)
  have hnat : u.toNat ≠ v.toNat := fun e => hne (BitVec.eq_of_toNat_eq e)
  have horder : CanonBefore lens u v ∨ (lens.get u).toNat = (lens.get v).toNat ∧ CanonBefore lens v u := by
    unfold CanonBefore
    omega
  rcases horder with huv | ⟨hlen, hvu⟩
  · have hcode := canon_lt_of_canonBefore hcomplete hu hv huv
    rw [← Nat.le_div_iff_mul_le (by positivity), hbegins] at hcode
    omega
  · have hcode := canon_lt_of_canonBefore hcomplete hv hu hvu
    rw [hlen, Nat.sub_self, pow_zero, Nat.mul_one] at hcode
    rw [hlen, Nat.sub_self, pow_zero, Nat.div_one] at hbegins
    omega

/-- Settles O41: the reader takes back the pairs of the table, whose lengths pass its checks since the table is
complete. -/
theorem hufRtableReadsTable : Obligations.HufRtableReadsTable := by
  intro s lens junk hsrc hcomplete hne hbytes
  rw [symbols_eq_coded] at hne ⊢
  have hread : readClt (srcBytes s) = .ok (lens, symbolCount lens) := hbytes ▸ readClt_clt hcomplete hne junk
  refine ⟨_, exec_hufRtable_of_ok hsrc hread, rfl, ?_⟩
  simp only [result_maxlen, loadTable_maxlen, toNat_ofNat_longest]
  exact longest_spec lens

/-- Settles O34: a count is at most the length of the block and so fits in FREQ. -/
theorem hufCountRule : Obligations.HufCountRule := by
  intro s
  have hlen : (srcBytes s).length = s.srcLen.toNat := length_srcBytes s
  have hlt : (srcBytes s).length < 2 ^ 32 := hlen ▸ s.srcLen.isLt
  refine ⟨fun hblock hsrc => ?_, fun hblock => ?_, fun hblock hsrc => ?_⟩
  · have hrun := exec_hufCount_of_none (s := s) (by simp [commandError, hblock, hsrc])
    have hfreq (v : Byte) : ((hufCounted s).freq.get v).toNat = (srcBytes s).count v := toNat_get_frequencies hlt v
    refine ⟨_, hrun, rfl, fun v => ?_, ?_, ?_⟩
    · rw [hfreq, List.count_eq_countP, List.countP_eq_length_filter]
      congr
    · have hcard : (srcBytes s).toFinset.card ≤ s.srcLen.toNat := hlen ▸ List.toFinset_card_le _
      rw [← length_present_frequencies hlt] at hcard ⊢
      exact toNat_ofNat_of_le hcard
    · simp only [hfreq]
      exact (sum_count_of_subset allBytes_nodup fun v _ => mem_allBytes v).trans hlen
  · exact exec_hufCount_of_some (by rw [commandError, if_pos hblock])
  · exact exec_hufCount_of_some (by rw [commandError, if_neg (not_not.2 hblock), if_pos hsrc])

/-- Settles O35: the two constructions go in step. -/
theorem hufBuildRule : Obligations.HufBuildRule := by
  intro s
  refine ⟨get_huffLengths_eq_huffLength s.freq, fun _ => ⟨_, exec_hufBuild s, rfl, fun v => ?_, ?_, ?_⟩⟩
  · exact (toNat_get_builtLengths s.freq v).trans (get_huffLengths_eq_huffLength s.freq v)
  · rw [symbols_eq_coded]
    exact toNat_ofNat_symbolCount _
  · simp only [hufBuilt, result_maxlen, loadTable_maxlen, toNat_ofNat_longest]
    exact longest_spec _

/-- Settles O36: HUF.BUILD never fails, and the lengths it installs are those of R155. -/
theorem loneSymbolGetsOneBit : Obligations.LoneSymbolGetsOneBit := by
  intro s
  refine ⟨fun v hv hlone => ?_, fun hzero => ?_⟩
  · have hpresent : present s.freq = [v] :=
      Table.support_eq_singleton fun u => ⟨hlone u, fun h => h ▸ hv⟩
    have hlens := get_builtLengths_of_singleton hpresent
    have hcoded : coded (builtLengths s.freq) = [v] := Table.support_eq_singleton fun u => by simp [hlens]
    have hcount : symbolCount (builtLengths s.freq) = 1 := congrArg List.length hcoded
    have hlongest : longest (builtLengths s.freq) = 1 := by
      obtain ⟨hmax, u, hu⟩ := longest_spec (builtLengths s.freq)
      have hv1 := hmax v
      rw [hlens, if_pos rfl] at hv1
      have hu1 : ((builtLengths s.freq).get u).toNat ≤ 1 := by rw [hlens]; split <;> decide
      exact le_antisymm (hu ▸ hu1) hv1
    refine ⟨_, exec_hufBuild s, by simp [hufBuilt, hlens], fun u hu => by simp [hufBuilt, hlens, hu],
      get_canon_of_singleton hcoded, ?_⟩
    simp [hufBuilt, hcount, hlongest]
  · have hpresent : present s.freq = [] := List.eq_nil_iff_forall_not_mem.2 fun v hv => mem_present.1 hv (hzero v)
    refine ⟨_, exec_hufBuild s, ?_⟩
    rw [hufBuilt, builtLengths_of_nil hpresent]
    simpa using fun u => congrArg (Table.get · u) canon_fill_zero

/-- Settles O39: the byte values before one in canonical order are those that `CanonBefore` names. -/
theorem canonicalCodeIsPrefixSum : Obligations.CanonicalCodeIsPrefixSum := by
  intro lens v hcomplete hpos
  obtain ⟨pre, post, h⟩ := List.append_of_mem (mem_canonOrder.2 (toNat_pos_iff.1 hpos))
  rw [toNat_get_canon hcomplete h, symbols_eq_coded]
  exact (codeSpace_perm (filter_canonBefore_perm h)).symm
/-- Settles O40: the byte values with a code are those the statement lists, so the bytes written are the same. -/
theorem hufWtableRule : Obligations.HufWtableRule := by
  intro s hagree
  rw [symbols_eq_coded] at hagree
  refine ⟨fun hdst hK => ?_, fun hdst hK hcap => ?_, fun hdst hK hcap => ?_, fun hdst => ?_⟩
  · rw [exec_hufWtable_of_none (by simp [commandError, hdst, hK]), hufWritten, if_pos hK]
    rfl
  · have hrun := exec_hufWtable_of_none (s := s) (by simp [commandError, hdst, hK, hcap])
    have hbytes : clt s.len = BitVec.ofNat 8 (s.nsym.toNat - 1) :: tablePairs s.len := by rw [clt_eq, hagree]; rfl
    have hlen : (clt s.len).length = 1 + 2 * s.nsym.toNat := by
      rw [clt_eq, List.length_cons, length_tablePairs, hagree, Nat.add_comm]
      rfl
    refine ⟨_, hrun, hlen, ?_⟩
    rw [hufWritten, if_neg hK, ← hbytes, BitVec.ofNat_toNat, BitVec.setWidth_eq]
    exact wrote_result_dstWrite s (clt s.len) _ _
  · exact exec_hufWtable_of_some (by rw [commandError, if_neg (not_not.2 hdst), if_neg hK, if_pos hcap])
  · exact exec_hufWtable_of_some (by rw [commandError, if_pos hdst])

/-- Settles O42: the reader fails at the first bad pair behind good ones, or else at the lengths as a whole. -/
theorem hufRtableErrors : Obligations.HufRtableErrors := by
  intro s hsrc
  have hlen : (srcBytes s).length = s.srcLen.toNat := length_srcBytes s
  have hgood {ps : List (Byte × Byte)} (h : ps.Pairwise (fun p q => p.1.toNat < q.1.toNat)
      ∧ ∀ p ∈ ps, 0 < p.2.toNat ∧ p.2.toNat ≤ 64) : PairsFrom 0 ps := ⟨h.1, fun p hp => ⟨Nat.zero_le _, h.2 p hp⟩⟩
  refine ⟨fun hshort => ?_, fun k v l ps more hps hbytes hcount hfull => ?_, fun ps junk hps hne hmax hbytes => ?_⟩
  · refine exec_hufRtable_of_error (d := 1) hsrc (readClt_of_short ?_)
    rw [hlen]
    refine (Nat.eq_zero_or_pos _).imp_right fun hpos => ?_
    rw [List.getD_eq_getElem _ _ (hlen ▸ hpos)]
    have hfirst : (srcBytes s)[0]'(hlen ▸ hpos) = readBuf s s.srcAddr.toNat := getElem_memRead ..
    rw [hfirst]
    exact hshort.resolve_left hpos.ne'
  · have hrest : 2 * (k.toNat + 1) ≤ (pairBytes ps ++ v :: l :: more).length := by
      have hcons : (pairBytes ps ++ v :: l :: more).length + 1 = s.srcLen.toNat :=
        hlen ▸ congrArg List.length hbytes.symm
      omega
    have hread {d : Byte} (hbad : ∀ j, readPairs (j + 1) (leastAfter 0 ps) (v :: l :: more) = .error d) :
        readClt (srcBytes s) = .error d := hbytes ▸ readClt_of_badPair (hgood hps) hcount hrest hbad
    refine ⟨fun hdesc => ?_, fun hasc => ?_⟩
    · have hlow : v.toNat < leastAfter 0 ps := (lt_leastAfter_iff (hgood hps) _).2 (.inr hdesc)
      exact exec_hufRtable_of_error (d := 2) hsrc (hread fun j => readPairs_of_lt hlow)
    · have hhigh : leastAfter 0 ps ≤ v.toNat := by
        rw [← not_lt, lt_leastAfter_iff (hgood hps)]
        rintro (h | ⟨p, hp, h⟩)
        · exact Nat.not_lt_zero _ h
        · exact (hasc p hp).not_ge h
      refine ⟨?_, fun hlong => exec_hufRtable_of_error (d := 4) hsrc (hread fun j => readPairs_of_long hhigh hlong)⟩
      rintro rfl
      exact exec_hufRtable_of_error (d := 3) hsrc (hread fun j => readPairs_of_zero hhigh)
  · have hread {d : Byte} (hkraft : kraftError (ps.map fun p => p.2.toNat) = some d) :
        readClt (srcBytes s) = .error d := hbytes ▸ readClt_of_kraftError (hgood hps) hne hmax hkraft junk
    have hsum (htwo : 2 ≤ ps.length) := kraftError_of_two_le (ls := ps.map fun p => p.2.toNat) (by simpa using htwo)
    simp only [kraftSum_map] at hsum
    refine ⟨fun hone hlone => ?_, fun htwo hover => ?_, fun htwo hunder => ?_⟩
    · obtain ⟨p, rfl⟩ := List.length_eq_one_iff.1 hone
      have hp : p.2.toNat ≠ 1 := fun e => hlone p List.mem_cons_self (BitVec.eq_of_toNat_eq e)
      exact exec_hufRtable_of_error (d := 5) hsrc (hread (if_pos hp))
    · exact exec_hufRtable_of_error (d := 6) hsrc (hread ((hsum htwo).trans (if_pos hover)))
    · exact exec_hufRtable_of_error (d := 7) hsrc
        (hread ((hsum htwo).trans ((if_neg hunder.not_gt).trans (if_pos hunder))))

end Sys2Proof.Proofs
end

section
/-! Bit sequences (30_encoding.md R99, 20_memory.md R68): a sequence of bits and the number it writes, most significant bit
first; the bits of packed bytes are the bits packed and the padding. -/

namespace Sys2Proof.Machine

open Sys2Proof.Spec

/-! ### Bits and the number they write -/

/-- The low `n` bits of a number, most significant first. -/
def natBits (n c : Nat) : List Bool := (List.range n).map fun i => c.testBit (n - 1 - i)

@[simp] theorem length_natBits (n c : Nat) : (natBits n c).length = n := by simp [natBits]

theorem natBits_succ (n c : Nat) : natBits (n + 1) c = natBits n (c / 2) ++ [c.testBit 0] := by
  have hlow : ∀ i ∈ List.range n, c.testBit (n - i) = (c / 2).testBit (n - 1 - i) := fun i hi => by
    rw [Nat.testBit_div_two]
    congr 1
    have := List.mem_range.1 hi
    omega
  simp [natBits, List.range_succ, List.map_congr_left hlow]

@[simp] theorem bitsToNat_nil : bitsToNat [] = 0 := rfl

theorem bitsToNat_concat (bits : List Bool) (b : Bool) : bitsToNat (bits ++ [b]) = 2 * bitsToNat bits + b.toNat := by
  simp [bitsToNat]

theorem bitsToNat_natBits (n c : Nat) : bitsToNat (natBits n c) = c % 2 ^ n := by
  induction n generalizing c with
  | zero => simp [natBits, Nat.mod_one]
  | succ n ih =>
    have hlast : (c.testBit 0).toNat = c % 2 := by
      rcases Nat.mod_two_eq_zero_or_one c with h | h <;> simp [h]
    rw [natBits_succ, bitsToNat_concat, ih, hlast, pow_succ', Nat.mod_mul]
    omega

theorem natBits_bitsToNat (bits : List Bool) : natBits bits.length (bitsToNat bits) = bits := by
  induction bits using List.reverseRecOn with
  | nil => rfl
  | append_singleton bits b ih =>
    have hhalf : bitsToNat (bits ++ [b]) / 2 = bitsToNat bits := by
      rw [bitsToNat_concat]
      have := b.toNat_lt
      omega
    have hlast : (bitsToNat (bits ++ [b])).testBit 0 = b := by
      cases b <;> simp [bitsToNat_concat]
    rw [List.length_append, List.length_singleton, natBits_succ, hhalf, ih, hlast]

theorem bitsToNat_lt (bits : List Bool) : bitsToNat bits < 2 ^ bits.length := by
  rw [← natBits_bitsToNat bits, bitsToNat_natBits, length_natBits]
  exact Nat.mod_lt _ (by positivity)

theorem bitsToNat_append (a b : List Bool) : bitsToNat (a ++ b) = bitsToNat a * 2 ^ b.length + bitsToNat b := by
  induction b using List.reverseRecOn with
  | nil => simp
  | append_singleton b x ih =>
    rw [← List.append_assoc, bitsToNat_concat, ih, bitsToNat_concat, List.length_append, List.length_singleton]
    ring

/-- The number that the first bits of a sequence write. -/
theorem bitsToNat_take (bits : List Bool) (n : Nat) :
    bitsToNat (bits.take n) = bitsToNat bits / 2 ^ (bits.length - n) := by
  have h := bitsToNat_append (bits.take n) (bits.drop n)
  have hlow := bitsToNat_lt (bits.drop n)
  rw [List.take_append_drop] at h
  rw [List.length_drop] at h hlow
  rw [h, Nat.add_comm, Nat.add_mul_div_right _ _ (by positivity), Nat.div_eq_of_lt hlow, Nat.zero_add]

/-! ### Bytes -/

theorem bytesOfBits_eq_bytesFor (n : Nat) : bytesOfBits n = bytesFor n := by
  unfold bytesOfBits bytesFor
  split <;> omega

theorem bytesFor_mono {m n : Nat} (h : m ≤ n) : bytesFor m ≤ bytesFor n := Nat.div_le_div_right (Nat.add_le_add_right h 7)

theorem streamBits_cons (b : Byte) (B : List Byte) : streamBits (b :: B) = natBits 8 b.toNat ++ streamBits B := rfl

theorem byteAt_succ (bits : List Bool) (j : Nat) : byteAt bits (j + 1) = byteAt (bits.drop 8) j := by
  rw [byteAt, byteAt, List.drop_drop, Nat.mul_succ, Nat.add_comm]

theorem natBits_byteAt_zero {bits : List Bool} (h : 8 ≤ bits.length) :
    natBits 8 (byteAt bits 0).toNat = bits.take 8 := by
  have hlen : (bits.take 8).length = 8 := by simpa using h
  have hbits := natBits_bitsToNat (bits.take 8)
  have hlt := bitsToNat_lt (bits.take 8)
  rw [hlen] at hbits hlt
  rw [byteAt, Nat.mul_zero, List.drop_zero, BitVec.toNat_ofNat, Nat.mod_eq_of_lt hlt, hbits]

/-- The bytes of a sequence of whole bytes have its bits. -/
theorem streamBits_map_byteAt {n : Nat} {bits : List Bool} (h : bits.length = 8 * n) :
    streamBits ((List.range n).map (byteAt bits)) = bits := by
  induction n generalizing bits with
  | zero => simpa using (List.length_eq_zero_iff.1 h).symm
  | succ n ih =>
    have hrest : streamBits ((List.range n).map (byteAt (bits.drop 8))) = bits.drop 8 :=
      ih (by rw [List.length_drop]; omega)
    rw [List.range_succ_eq_map, List.map_cons, List.map_map, streamBits_cons, natBits_byteAt_zero (by omega)]
    simp only [Function.comp_def, Nat.succ_eq_add_one, byteAt_succ]
    rw [hrest, List.take_append_drop]

/-- Packed bytes hold the bits packed and the pad bits (44_bitpack.md R170). -/
theorem streamBits_packBytes (bits : List Bool) :
    streamBits (packBytes bits) = bits ++ List.replicate (padCount bits.length) false :=
  streamBits_map_byteAt (by rw [List.length_append, List.length_replicate, add_padCount])

/-! ### The codes of a block -/

theorem bitsOfCode_eq_natBits (s : State) (v : Byte) :
    bitsOfCode s v = natBits (s.len.get v).toNat (s.code.get v).toNat := rfl

@[simp] theorem length_bitsOfCode (s : State) (v : Byte) : (bitsOfCode s v).length = (s.len.get v).toNat :=
  length_codeBits s v

@[simp] theorem bitsOfBlock_nil (s : State) : bitsOfBlock s [] = [] := rfl

theorem bitsOfBlock_cons (s : State) (v : Byte) (X : List Byte) :
    bitsOfBlock s (v :: X) = bitsOfCode s v ++ bitsOfBlock s X := rfl

theorem bitsOfBlock_concat (s : State) (X : List Byte) (v : Byte) :
    bitsOfBlock s (X ++ [v]) = bitsOfBlock s X ++ bitsOfCode s v := by simp [bitsOfBlock]

end Sys2Proof.Machine
end

section
/-! What BIT.PACK ends in (44_bitpack.md R170): coded bytes that fit add their codes, the first other byte is its error. -/

namespace Sys2Proof.Machine

open Sys2Proof.Spec

/-! ### Packing -/

/-- Coded bytes that fit add their codes to the bits packed so far. -/
theorem packBits_append {s : State} {cap : Nat} {pre : List Byte} {bits : List Bool}
    (hcoded : ∀ u ∈ pre, s.len.get u ≠ 0) (hfit : bytesFor (bits ++ bitsOfBlock s pre).length ≤ cap) (S : List Byte) :
    packBits s cap (pre ++ S) bits = packBits s cap S (bits ++ bitsOfBlock s pre) := by
  induction pre generalizing bits with
  | nil => simp
  | cons u pre ih =>
    obtain ⟨hu, hpre⟩ := List.forall_mem_cons.1 hcoded
    rw [bitsOfBlock_cons, ← List.append_assoc] at hfit ⊢
    have hone : bytesFor (bits ++ bitsOfCode s u).length ≤ cap :=
      (bytesFor_mono (List.prefix_append ..).length_le).trans hfit
    rw [List.cons_append, packBits, if_neg hu]
    exact (if_neg hone.not_gt).trans (ih hpre hfit)

/-- A block that packs has a code for every byte, and its bits are the codes. -/
theorem packBits_eq_ok {s : State} {cap : Nat} {S : List Byte} {bits out : List Bool}
    (h : packBits s cap S bits = .ok out) : (∀ v ∈ S, s.len.get v ≠ 0) ∧ out = bits ++ bitsOfBlock s S := by
  induction S generalizing bits with
  | nil =>
    cases h
    simp
  | cons v S ih =>
    rw [packBits] at h
    split at h
    · cases h
    next hv =>
      dsimp only at h
      split at h
      · cases h
      next =>
        obtain ⟨hcoded, rfl⟩ := ih h
        exact ⟨List.forall_mem_cons.2 ⟨hv, hcoded⟩, List.append_assoc ..⟩

theorem packBits_of_uncoded {s : State} {v : Byte} (hv : s.len.get v = 0) (cap : Nat) (S : List Byte)
    (bits : List Bool) : packBits s cap (v :: S) bits = .error ⟨.uncodedSymbol, v⟩ := if_pos hv

theorem packBits_of_overflow {s : State} {cap : Nat} {v : Byte} {bits : List Bool} (hv : s.len.get v ≠ 0)
    (hcap : cap < bytesFor (bits ++ bitsOfCode s v).length) (S : List Byte) :
    packBits s cap (v :: S) bits = .error ⟨.dstOverflow, 0⟩ := (if_neg hv).trans (if_pos hcap)

/-! ### The command -/

/-- The checks of BIT.PACK before it packs. -/
def bitPackChecks (s : State) : List Check := checkSrcSize s :: checkRanges s

/-- The checks of BIT.PACK give the errors of the statements, in their order (60_exceptions.md R203). -/
theorem codes_bitPackChecks (s : State) :
    (firstError (bitPackChecks s)).map CmdError.codes
      = if ¬ BlockOk s s.srcLen then some (1, 1) else rangeError s none := by
  rw [bitPackChecks, codes_firstError_checkSrcSize, ← List.append_nil (checkRanges s), codes_firstError_checkRanges]
  rfl

theorem firstError_bitPackChecks_eq_none {s : State} :
    firstError (bitPackChecks s) = none ↔ BlockOk s s.srcLen ∧ RangesOk s := by
  rw [← Option.map_eq_none_iff (f := CmdError.codes), codes_bitPackChecks]
  by_cases hblock : BlockOk s s.srcLen
  · rw [if_neg (not_not.2 hblock)]
    exact ⟨fun h => ⟨hblock, (rangeError_eq_none h).1⟩, fun ⟨_, hranges⟩ => rangeError_of_rangesOk hranges none⟩
  · simp [hblock]

/-- The state in which BIT.PACK ends when the codes of its block are `bits` and fit (44_bitpack.md R170). -/
def bitPacked (s : State) (bits : List Bool) : State :=
  result (BitVec.ofNat 32 (bytesFor bits.length)) (BitVec.ofNat 32 (padCount bits.length)) (dstWrite s (packBytes bits))

/-- The state in which BIT.PACK ends when packing raises an error (60_exceptions.md R211). -/
def bitPackFailed (s : State) (e : CmdError) : State :=
  raiseError (opcode .bitPack) e (memScramble s s.dstAddr.toNat s.dstCap.toNat)

theorem exec_bitPack_of_check {s : State} {e : CmdError} (hchecks : firstError (bitPackChecks s) = some e) :
    exec .bitPack s = .next (raiseError (opcode .bitPack) e s) := by
  rw [bitPackChecks] at hchecks
  simp only [exec, execBitPack, hchecks]

theorem exec_bitPack_of_ok {s : State} {bits : List Bool} (hchecks : firstError (bitPackChecks s) = none)
    (h : packBits s s.dstCap.toNat (srcBytes s) [] = .ok bits) : exec .bitPack s = .next (bitPacked s bits) := by
  rw [bitPackChecks] at hchecks
  simp only [exec, execBitPack, hchecks, h, bitPacked]

theorem exec_bitPack_of_error {s : State} {e : CmdError} (hchecks : firstError (bitPackChecks s) = none)
    (h : packBits s s.dstCap.toNat (srcBytes s) [] = .error e) : exec .bitPack s = .next (bitPackFailed s e) := by
  rw [bitPackChecks] at hchecks
  simp only [exec, execBitPack, hchecks, h, bitPackFailed]

/-- A BIT.PACK that reports success passed its checks and packed its block. -/
theorem eq_bitPacked_of_done {s t : State} (h : exec .bitPack s = .next t) (hdone : t.status.done = true) :
    (BlockOk s s.srcLen ∧ RangesOk s) ∧ ∃ bits, packBits s s.dstCap.toNat (srcBytes s) [] = .ok bits
      ∧ t = bitPacked s bits := by
  cases hchecks : firstError (bitPackChecks s) with
  | some e =>
    rw [← Host.Outcome.next.inj ((exec_bitPack_of_check hchecks).symm.trans h)] at hdone
    cases hdone
  | none =>
    refine ⟨firstError_bitPackChecks_eq_none.1 hchecks, ?_⟩
    cases hbits : packBits s s.dstCap.toNat (srcBytes s) [] with
    | error e =>
      rw [← Host.Outcome.next.inj ((exec_bitPack_of_error hchecks hbits).symm.trans h)] at hdone
      cases hdone
    | ok bits =>
      exact ⟨bits, rfl, Host.Outcome.next.inj (h.symm.trans (exec_bitPack_of_ok hchecks hbits))⟩

/-- An error while packing changes the destination range only, and the counter of free values. -/
theorem bitPackFailed_spec {s : State} {e : CmdError} {c d : Nat} (hcodes : e.codes = (c, d)) :
    bitPackFailed s e
        = errorState 0x40 c d { s with buf := (bitPackFailed s e).buf, fresh := (bitPackFailed s e).fresh }
      ∧ ∀ a, a < s.dstAddr.toNat ∨ s.dstAddr.toNat + s.dstCap.toNat ≤ a → readBuf (bitPackFailed s e) a = readBuf s a :=
  ⟨raiseError_of_codes hcodes _, fun _ ha => readBuf_memScramble_outside ha⟩

end Sys2Proof.Machine
end

section
/-! Decoding (44_bitpack.md R171, R172): in a sound state with a complete table the decoder gives a byte value exactly when
the bits read are its code, no code begins with another, and with two or more symbols every long enough bit sequence begins
with a code. -/

namespace Sys2Proof.Machine

open Sys2Proof.Spec

/-! ### The search for a code -/

theorem codeLookup_codeList (s : State) (l c : Nat) :
    codeLookup (codeList s) l c
      = (coded s.len).find? fun v => (s.len.get v).toNat == l && (s.code.get v).toNat == c := by
  simp [codeLookup, codeList, List.find?_map, Function.comp_def]

/-- The decoder's next bit, after the bits `p`. -/
theorem decodeOne_cons (codes : List (Byte × Nat × Nat)) (m : Nat) (p : List Bool) (b : Bool) (bits : List Bool) :
    decodeOne codes m p.length (bitsToNat p) (b :: bits)
      = (codeLookup codes (p ++ [b]).length (bitsToNat (p ++ [b]))).elim
          (if m ≤ (p ++ [b]).length then .error 2
            else decodeOne codes m (p ++ [b]).length (bitsToNat (p ++ [b])) bits)
          fun v => .ok (v, bits) := by
  rw [List.length_append, List.length_singleton, bitsToNat_concat, decodeOne]
  cases codeLookup codes (p.length + 1) (2 * bitsToNat p + b.toNat) with
  | some v => rfl
  | none => rfl

/-! ### Code space of a complete table -/

theorem eq_of_coded_eq_singleton {lens : Table Byte} {u v : Byte} (hlone : coded lens = [v])
    (hu : lens.get u ≠ 0) : u = v := by
  simpa [hlone] using mem_coded.2 hu

theorem CompleteTable.get_lone {lens : Table Byte} {v : Byte} (h : CompleteTable lens) (hlone : coded lens = [v]) :
    lens.get v = 1 := by
  rcases h with hnil | ⟨u, hu, hone⟩ | ⟨htwo, -⟩
  · cases hlone.symm.trans hnil
  · cases hlone.symm.trans hu
    exact hone
  · simp [hlone] at htwo

/-- The longest code of a lone symbol is its own. -/
theorem longest_eq_one_of_lone {lens : Table Byte} {v : Byte} (hlone : coded lens = [v]) (hone : lens.get v = 1) :
    longest lens = 1 := by
  obtain ⟨hmax, u, hu⟩ := longest_spec lens
  have hv := hmax v
  rw [hone] at hv
  by_cases huz : lens.get u = 0
  · rw [← hu, huz] at hv
    contradiction
  · rw [← hu, eq_of_coded_eq_singleton hlone huz, hone]
    rfl

/-- The codes of two or more symbols fill the code space (43_huffman.md R157). -/
theorem CompleteTable.codeSpace_longest {lens : Table Byte} (h : CompleteTable lens) (htwo : 2 ≤ (coded lens).length) :
    codeSpace lens (longest lens) (canonOrder lens) = 2 ^ longest lens := by
  obtain ⟨hlongest, w, hw⟩ := longest_spec lens
  rcases h with hnil | ⟨u, hu, -⟩ | ⟨-, hmax, hsum⟩
  · simp [hnil] at htwo
  · simp [hu] at htwo
  · have hl : longest lens ≤ 64 := hw ▸ hmax w
    refine Nat.eq_of_mul_eq_mul_right (Nat.two_pow_pos (64 - longest lens)) ?_
    rw [codeSpace_mul_pow hl fun u _ => hlongest u, codeSpace_perm (canonOrder_perm lens), codeSpace, hsum, ← pow_add,
      Nat.add_sub_cancel' hl]

/-- A number inside a code space lies in the share of one byte value. -/
theorem exists_of_lt_codeSpace {lens : Table Byte} {l c : Nat} {us : List Byte} (hc : c < codeSpace lens l us) :
    ∃ pre v post, us = pre ++ v :: post ∧ codeSpace lens l pre ≤ c
      ∧ c < codeSpace lens l pre + 2 ^ (l - (lens.get v).toNat) := by
  induction us generalizing c with
  | nil => cases hc
  | cons u us ih =>
    rw [codeSpace_cons] at hc
    by_cases hu : c < 2 ^ (l - (lens.get u).toNat)
    · exact ⟨[], u, us, rfl, Nat.zero_le _, (Nat.zero_add _).symm ▸ hu⟩
    · obtain ⟨pre, v, post, rfl, hlow, hhigh⟩ := ih (c := c - 2 ^ (l - (lens.get u).toNat)) (by omega)
      refine ⟨u :: pre, v, post, rfl, ?_, ?_⟩ <;> rw [codeSpace_cons] <;> omega

/-! ### The tables of a sound state -/

/-- The tables the decoder reads are those of a complete code: what it needs of a sound state (10_state.md R38, R42). -/
structure DecodableTable (s : State) : Prop where
  complete : CompleteTable s.len
  codeCanonical : s.code = canon s.len
  nsymAgrees : s.nsym = BitVec.ofNat 32 (symbolCount s.len)
  maxlenAgrees : s.maxlen = BitVec.ofNat 32 (longest s.len)

theorem Inv.decodableTable {s : State} (h : Inv s) (hcomplete : CompleteTable s.len) : DecodableTable s :=
  ⟨hcomplete, h.codeCanonical, h.nsymAgrees, h.maxlenAgrees⟩

section
variable {s : State} (h : DecodableTable s)
include h

theorem DecodableTable.nsym_ne_zero (hcoded : coded s.len ≠ []) : s.nsym ≠ 0 := by
  have hpos : 0 < symbolCount s.len := List.length_pos_iff.2 hcoded
  rwa [← toNat_pos_iff, h.nsymAgrees, toNat_ofNat_symbolCount]

theorem DecodableTable.toNat_maxlen : s.maxlen.toNat = longest s.len := by
  rw [h.maxlenAgrees, toNat_ofNat_longest]

theorem DecodableTable.length_le_maxlen (v : Byte) : (bitsOfCode s v).length ≤ s.maxlen.toNat := by
  rw [length_bitsOfCode, h.toNat_maxlen]
  exact (longest_spec s.len).1 v

/-! ### The codes as bit sequences -/

theorem DecodableTable.bitsToNat_bitsOfCode (v : Byte) : bitsToNat (bitsOfCode s v) = (s.code.get v).toNat := by
  rw [bitsOfCode_eq_natBits, bitsToNat_natBits, h.codeCanonical, Nat.mod_eq_of_lt (toNat_get_canon_lt h.complete v)]

/-- The bits of a code are its length and its value. -/
theorem DecodableTable.bitsOfCode_eq_iff {v : Byte} {p : List Bool} :
    bitsOfCode s v = p ↔ (s.len.get v).toNat = p.length ∧ (s.code.get v).toNat = bitsToNat p := by
  constructor
  · rintro rfl
    exact ⟨(length_bitsOfCode s v).symm, (h.bitsToNat_bitsOfCode v).symm⟩
  · rintro ⟨hlen, hcode⟩
    rw [bitsOfCode_eq_natBits, hlen, hcode, natBits_bitsToNat]

/-- No code begins with the code of another byte value (43_huffman.md R158). -/
theorem DecodableTable.eq_of_prefix {u v : Byte} (hu : s.len.get u ≠ 0) (hprefix : bitsOfCode s u <+: bitsOfCode s v) :
    u = v := by
  by_contra hne
  have hlen := hprefix.length_le
  have htake := congrArg bitsToNat (List.prefix_iff_eq_take.1 hprefix)
  rw [bitsToNat_take, h.bitsToNat_bitsOfCode, h.bitsToNat_bitsOfCode, length_bitsOfCode, length_bitsOfCode,
    h.codeCanonical] at htake
  rw [length_bitsOfCode, length_bitsOfCode] at hlen
  exact (Proofs.canonicalCodesPrefixFree s.len h.complete).2 u v hne (toNat_pos_iff.2 hu) hlen htake.symm

/-- The decoder finds a byte value exactly when the bits read are its code. -/
theorem DecodableTable.codeLookup_eq_some_iff {p : List Bool} {v : Byte} :
    codeLookup (codeList s) p.length (bitsToNat p) = some v ↔ s.len.get v ≠ 0 ∧ bitsOfCode s v = p := by
  have hfound {u : Byte} (hu : codeLookup (codeList s) p.length (bitsToNat p) = some u) :
      s.len.get u ≠ 0 ∧ bitsOfCode s u = p := by
    rw [codeLookup_codeList] at hu
    exact ⟨mem_coded.1 (List.mem_of_find?_eq_some hu), h.bitsOfCode_eq_iff.2 (by simpa using List.find?_some hu)⟩
  refine ⟨hfound, fun ⟨hv, hbits⟩ => ?_⟩
  cases hlook : codeLookup (codeList s) p.length (bitsToNat p) with
  | some u =>
    obtain ⟨hu, hubits⟩ := hfound hlook
    have hprefix : bitsOfCode s u <+: bitsOfCode s v := by rw [hubits, hbits]
    rw [h.eq_of_prefix hu hprefix]
  | none =>
    rw [codeLookup_codeList, List.find?_eq_none] at hlook
    exact absurd (by simpa using h.bitsOfCode_eq_iff.1 hbits) (hlook v (mem_coded.2 hv))

theorem DecodableTable.codeLookup_eq_none_iff {p : List Bool} :
    codeLookup (codeList s) p.length (bitsToNat p) = none ↔ ∀ v, s.len.get v ≠ 0 → bitsOfCode s v ≠ p := by
  simp only [Option.eq_none_iff_forall_ne_some, ne_eq, h.codeLookup_eq_some_iff, not_and]

/-! ### One symbol -/

/-- Bits that do not complete a code decide nothing. -/
theorem DecodableTable.decodeOne_within_code {v : Byte} {p q r : List Bool} (hcode : p ++ q ++ r = bitsOfCode s v)
    (hr : r ≠ []) (bits : List Bool) :
    decodeOne (codeList s) s.maxlen.toNat p.length (bitsToNat p) (q ++ bits)
      = decodeOne (codeList s) s.maxlen.toNat (p ++ q).length (bitsToNat (p ++ q)) bits := by
  induction q generalizing p with
  | nil => rw [List.append_nil, List.nil_append]
  | cons b q ih =>
    have hsplit : p ++ [b] ++ (q ++ r) = bitsOfCode s v := by simpa using hcode
    have hrest : 0 < (q ++ r).length := List.length_pos_iff.2 (by simp [hr])
    have hshort : (p ++ [b]).length < (bitsOfCode s v).length := by
      rw [← hsplit, List.length_append (bs := q ++ r)]
      omega
    have hnone : codeLookup (codeList s) (p ++ [b]).length (bitsToNat (p ++ [b])) = none := by
      rw [h.codeLookup_eq_none_iff]
      intro u hu hubits
      have huv : u = v := h.eq_of_prefix hu (hubits ▸ hsplit ▸ List.prefix_append ..)
      rw [← hubits, huv] at hshort
      exact lt_irrefl _ hshort
    have hmax : ¬ s.maxlen.toNat ≤ (p ++ [b]).length := (hshort.trans_le (h.length_le_maxlen v)).not_ge
    rw [List.cons_append, decodeOne_cons, hnone]
    exact (if_neg hmax).trans ((ih (by simpa using hcode)).trans (by simp))

/-- The decoder takes the code of a byte value off the stream (44_bitpack.md R172). -/
theorem DecodableTable.decodeOne_bitsOfCode {v : Byte} (hv : s.len.get v ≠ 0) (bits : List Bool) :
    decodeOne (codeList s) s.maxlen.toNat 0 0 (bitsOfCode s v ++ bits) = .ok (v, bits) := by
  have hne : bitsOfCode s v ≠ [] := by
    rw [← List.length_pos_iff, length_bitsOfCode]
    exact toNat_pos_iff.2 hv
  obtain ⟨q, b, hcode⟩ := (List.eq_nil_or_concat' _).resolve_left hne
  have hread := h.decodeOne_within_code (p := []) hcode.symm (List.cons_ne_nil b []) (b :: bits)
  have hfound : codeLookup (codeList s) (q ++ [b]).length (bitsToNat (q ++ [b])) = some v :=
    h.codeLookup_eq_some_iff.2 ⟨hv, hcode⟩
  rw [List.nil_append, decodeOne_cons, hfound] at hread
  rw [hcode, List.append_assoc]
  exact hread

/-- A stream that ends within a code has run out (44_bitpack.md R172). -/
theorem DecodableTable.decodeOne_of_cut {v : Byte} {tail : List Bool} (hprefix : tail <+: bitsOfCode s v)
    (hne : tail ≠ bitsOfCode s v) : decodeOne (codeList s) s.maxlen.toNat 0 0 tail = .error 1 := by
  obtain ⟨r, hr⟩ := hprefix
  have hrest : r ≠ [] := by
    rintro rfl
    exact hne (by rwa [List.append_nil] at hr)
  have hread := h.decodeOne_within_code (p := []) hr hrest []
  rw [List.append_nil] at hread
  exact hread

/-- The code of a lone symbol is one 0 bit (43_huffman.md R155). -/
theorem DecodableTable.lone_spec {v : Byte} (hlone : coded s.len = [v]) :
    s.len.get v ≠ 0 ∧ bitsOfCode s v = [false] ∧ s.maxlen.toNat = 1 := by
  have hone := h.complete.get_lone hlone
  have hlongest := longest_eq_one_of_lone hlone hone
  refine ⟨by rw [hone]; decide, h.bitsOfCode_eq_iff.2 ⟨by rw [hone]; rfl, ?_⟩, h.toNat_maxlen.trans hlongest⟩
  rw [h.codeCanonical, get_canon_of_singleton hlone]
  rfl

/-- With a lone symbol a 1 bit begins no code (44_bitpack.md R172). -/
theorem DecodableTable.decodeOne_of_lone {v : Byte} (hlone : coded s.len = [v]) (bits : List Bool) :
    decodeOne (codeList s) s.maxlen.toNat 0 0 (true :: bits) = .error 2 := by
  obtain ⟨-, hcode, hmax⟩ := h.lone_spec hlone
  have hnone : codeLookup (codeList s) ([] ++ [true]).length (bitsToNat ([] ++ [true])) = none := by
    rw [h.codeLookup_eq_none_iff]
    intro u hu hubits
    rw [eq_of_coded_eq_singleton hlone hu, hcode] at hubits
    cases hubits
  have hread := decodeOne_cons (codeList s) s.maxlen.toNat [] true bits
  rw [hnone] at hread
  exact hread.trans (if_pos hmax.le)

/-! ### Every long enough sequence begins with a code -/

/-- With two or more symbols, a sequence as long as the longest code begins with a code. -/
theorem DecodableTable.exists_code_prefix (htwo : 2 ≤ (coded s.len).length) {p : List Bool}
    (hp : p.length = longest s.len) : ∃ v, s.len.get v ≠ 0 ∧ bitsOfCode s v <+: p := by
  have hspace : bitsToNat p < codeSpace s.len p.length (canonOrder s.len) := by
    rw [hp, h.complete.codeSpace_longest htwo, ← hp]
    exact bitsToNat_lt p
  obtain ⟨pre, v, post, horder, hlow, hhigh⟩ := exists_of_lt_codeSpace hspace
  have hv : (s.len.get v).toNat ≤ p.length := hp ▸ (longest_spec s.len).1 v
  obtain ⟨-, -, hbefore⟩ := List.pairwise_append.1 (horder ▸ canonOrder_pairwise s.len)
  have hpre : ∀ u ∈ pre, (s.len.get u).toNat ≤ (s.len.get v).toNat := fun u hu =>
    length_le_of_canonBefore (hbefore u hu v List.mem_cons_self)
  rw [← codeSpace_mul_pow hv hpre] at hlow hhigh
  have hcode : (s.code.get v).toNat = bitsToNat p / 2 ^ (p.length - (s.len.get v).toNat) := by
    rw [h.codeCanonical, toNat_get_canon h.complete horder]
    exact (Nat.div_eq_of_lt_le hlow (by rwa [Nat.add_one_mul])).symm
  refine ⟨v, mem_canonOrder.1 (by simp [horder]), ?_⟩
  have hbits : bitsOfCode s v = p.take (s.len.get v).toNat :=
    h.bitsOfCode_eq_iff.2 ⟨by rw [List.length_take, Nat.min_eq_left hv], hcode.trans (bitsToNat_take ..).symm⟩
  exact hbits ▸ List.take_prefix ..

/-- With two or more symbols a decode fails only because the stream runs out (44_bitpack.md R172). -/
theorem DecodableTable.eq_one_of_decodeOne_from (htwo : 2 ≤ (coded s.len).length) {p bits : List Bool} {d : Byte}
    (hno : ∀ v, s.len.get v ≠ 0 → ¬ bitsOfCode s v <+: p) (hp : p.length < s.maxlen.toNat)
    (herr : decodeOne (codeList s) s.maxlen.toNat p.length (bitsToNat p) bits = .error d) : d = 1 := by
  induction bits generalizing p with
  | nil =>
    cases herr
    rfl
  | cons b bits ih =>
    rw [decodeOne_cons] at herr
    cases hlook : codeLookup (codeList s) (p ++ [b]).length (bitsToNat (p ++ [b])) with
    | some v =>
      rw [hlook] at herr
      cases herr
    | none =>
      have hno' : ∀ v, s.len.get v ≠ 0 → ¬ bitsOfCode s v <+: p ++ [b] := fun v hv hprefix =>
        (List.prefix_concat_iff.1 hprefix).elim (h.codeLookup_eq_none_iff.1 hlook v hv) (hno v hv)
      rw [hlook, Option.elim_none] at herr
      split at herr
      next hfull =>
        have hlongest : (p ++ [b]).length = longest s.len := by
          have hnext : (p ++ [b]).length = p.length + 1 := List.length_append
          rw [← h.toNat_maxlen]
          omega
        obtain ⟨v, hv, hprefix⟩ := h.exists_code_prefix htwo hlongest
        exact absurd hprefix (hno' v hv)
      next hshort => exact ih hno' (not_le.1 hshort) herr

theorem DecodableTable.eq_one_of_decodeOne_error (htwo : 2 ≤ (coded s.len).length) {bits : List Bool} {d : Byte}
    (herr : decodeOne (codeList s) s.maxlen.toNat 0 0 bits = .error d) : d = 1 := by
  have hpos {v : Byte} (hv : s.len.get v ≠ 0) : 0 < (bitsOfCode s v).length := by
    rw [length_bitsOfCode]
    exact toNat_pos_iff.2 hv
  obtain ⟨v, hv⟩ := List.exists_mem_of_length_pos (by omega : 0 < (coded s.len).length)
  refine h.eq_one_of_decodeOne_from (p := []) htwo (fun u hu hprefix => ?_)
    ((hpos (mem_coded.1 hv)).trans_le (h.length_le_maxlen v)) herr
  exact (hpos hu).ne' (List.length_eq_zero_iff.2 (List.prefix_nil.1 hprefix))

/-! ### The symbols of a block -/

/-- The decoder takes the codes of a block off the stream and goes on. -/
theorem DecodableTable.decodeMany_bitsOfBlock {X : List Byte} (hX : ∀ v ∈ X, s.len.get v ≠ 0) (t : Nat)
    (bits : List Bool) :
    decodeMany (codeList s) s.maxlen.toNat (X.length + t) (bitsOfBlock s X ++ bits)
      = (decodeMany (codeList s) s.maxlen.toNat t bits).map fun r => (X ++ r.1, r.2) := by
  induction X with
  | nil =>
    rw [List.length_nil, Nat.zero_add, bitsOfBlock_nil, List.nil_append]
    cases decodeMany (codeList s) s.maxlen.toNat t bits <;> rfl
  | cons v X ih =>
    obtain ⟨hv, hX⟩ := List.forall_mem_cons.1 hX
    rw [bitsOfBlock_cons, List.append_assoc, List.length_cons, Nat.add_right_comm, decodeMany, h.decodeOne_bitsOfCode hv]
    simp only [ih hX]
    cases decodeMany (codeList s) s.maxlen.toNat t bits <;> rfl

/-- After the codes of a block of fewer bytes than asked for, the error of the next symbol is the error of the decode. -/
theorem DecodableTable.decodeMany_of_decodeOne_error {X : List Byte} {t : Nat} {bits : List Bool} {d : Byte}
    (hX : ∀ v ∈ X, s.len.get v ≠ 0) (ht : X.length < t)
    (herr : decodeOne (codeList s) s.maxlen.toNat 0 0 bits = .error d) :
    decodeMany (codeList s) s.maxlen.toNat t (bitsOfBlock s X ++ bits) = .error d := by
  obtain ⟨k, rfl⟩ := Nat.exists_eq_add_of_lt ht
  rw [Nat.add_assoc, h.decodeMany_bitsOfBlock hX, decodeMany, herr]
  rfl

theorem DecodableTable.eq_one_of_decodeMany_error (htwo : 2 ≤ (coded s.len).length) {t : Nat} {bits : List Bool}
    {d : Byte} (herr : decodeMany (codeList s) s.maxlen.toNat t bits = .error d) : d = 1 := by
  induction t generalizing bits with
  | zero => cases herr
  | succ t ih =>
    rw [decodeMany] at herr
    split at herr
    next hone =>
      cases herr
      exact h.eq_one_of_decodeOne_error htwo hone
    next =>
      split at herr
      next hmany =>
        cases herr
        exact ih hmany
      next => cases herr

end

/-! ### The command -/

/-- The checks of BIT.UNPACK before it decodes (44_bitpack.md R171). -/
def bitUnpackChecks (s : State) : List Check :=
  checkAuxSize s :: checkRanges s ++
    [checkCap s s.aux.toNat, (decide (s.aux.toNat ≠ 0) && s.nsym == 0, ⟨.invalidCodeTable, 8⟩)]

/-- The checks of BIT.UNPACK give the errors of the statements, in their order (60_exceptions.md R203). -/
theorem codes_bitUnpackChecks (s : State) :
    (firstError (bitUnpackChecks s)).map CmdError.codes
      = if ¬ BlockOk s s.aux then some (1, 2)
        else rangeError s (if s.dstCap.toNat < s.aux.toNat then some (10, 0)
          else if s.aux.toNat ≠ 0 ∧ s.nsym = 0 then some (5, 8) else none) := by
  rw [bitUnpackChecks, List.cons_append, checkAuxSize, codes_firstError_cons, codes_firstError_checkRanges,
    codes_firstError_checkCap, codes_firstError_cons]
  simp only [exceedsBlock_iff, not_le, Bool.and_eq_true, decide_eq_true_eq, beq_iff_eq]
  rfl

theorem exec_bitUnpack_of_ok {s : State} {out : List Byte} {left : List Bool}
    (hchecks : firstError (bitUnpackChecks s) = none)
    (h : decodeMany (codeList s) s.maxlen.toNat s.aux.toNat (streamBits (srcBytes s)) = .ok (out, left)) :
    exec .bitUnpack s
      = .next (result s.aux (BitVec.ofNat 32 (bytesFor ((streamBits (srcBytes s)).length - left.length)))
          (dstWrite s out)) := by
  rw [bitUnpackChecks] at hchecks
  simp only [exec, execBitUnpack, hchecks, h]

/-- Where decoding fails, BIT.UNPACK ends with CORRUPT_PAYLOAD and changes nothing else (60_exceptions.md R210). -/
theorem exec_bitUnpack_of_error {s : State} {d : Byte} (hchecks : firstError (bitUnpackChecks s) = none)
    (h : decodeMany (codeList s) s.maxlen.toNat s.aux.toNat (streamBits (srcBytes s)) = .error d) :
    exec .bitUnpack s = .next (errorState 0x41 6 d.toNat s) := by
  have hraise : exec .bitUnpack s = .next (raiseError (opcode .bitUnpack) ⟨.corruptPayload, d⟩ s) := by
    rw [bitUnpackChecks] at hchecks
    simp only [exec, execBitUnpack, hchecks, h]
  rw [hraise, raiseError_of_codes rfl]
  rfl

/-- With a table that holds a code, BIT.UNPACK passes its checks. -/
theorem DecodableTable.firstError_bitUnpackChecks {s : State} (h : DecodableTable s) (hblock : BlockOk s s.aux)
    (hranges : RangesOk s) (hcap : s.aux.toNat ≤ s.dstCap.toNat) (hcoded : s.aux.toNat ≠ 0 → coded s.len ≠ []) :
    firstError (bitUnpackChecks s) = none := by
  rw [← Option.map_eq_none_iff (f := CmdError.codes), codes_bitUnpackChecks, if_neg (not_not.2 hblock),
    rangeError_of_rangesOk hranges, if_neg hcap.not_gt, if_neg fun ⟨haux, hnsym⟩ => h.nsym_ne_zero (hcoded haux) hnsym]

/-- BIT.UNPACK of a stream that begins with the codes of a block of AUX bytes writes the block (44_bitpack.md R173). -/
theorem DecodableTable.exec_bitUnpack_of_block {s : State} (h : DecodableTable s) {X : List Byte} {after : List Bool}
    (hblock : BlockOk s s.aux) (hranges : RangesOk s) (hcap : s.aux.toNat ≤ s.dstCap.toNat)
    (hlen : X.length = s.aux.toNat) (hX : ∀ v ∈ X, s.len.get v ≠ 0)
    (hstream : streamBits (srcBytes s) = bitsOfBlock s X ++ after) :
    ∃ t, exec .bitUnpack s = .next t
      ∧ Wrote s t X s.aux (BitVec.ofNat 32 (bytesOfBits (bitsOfBlock s X).length)) := by
  have hcoded : s.aux.toNat ≠ 0 → coded s.len ≠ [] := fun haux => by
    obtain ⟨v, hv⟩ := List.exists_mem_of_length_pos (by omega : 0 < X.length)
    exact List.ne_nil_of_mem (mem_coded.2 (hX v hv))
  have hdecode : decodeMany (codeList s) s.maxlen.toNat s.aux.toNat (streamBits (srcBytes s)) = .ok (X, after) := by
    have hmany := h.decodeMany_bitsOfBlock hX 0 after
    rw [Nat.add_zero, hlen, ← hstream] at hmany
    simpa [decodeMany, Except.map] using hmany
  have hconsumed : (streamBits (srcBytes s)).length - after.length = (bitsOfBlock s X).length := by
    rw [hstream, List.length_append, Nat.add_sub_cancel]
  refine ⟨_, exec_bitUnpack_of_ok (h.firstError_bitUnpackChecks hblock hranges hcap hcoded) hdecode, ?_⟩
  rw [hconsumed, bytesOfBits_eq_bytesFor]
  exact wrote_result_dstWrite ..

/-! ### BIT.UNPACK after BIT.PACK -/

/-- The state in which BIT.PACK ended, with the operands of BIT.UNPACK over its output, into `[d, d + c)` (44_bitpack.md
R174). -/
def bitUnpackOperands (s : State) (bits : List Bool) (d c : Word) : State :=
  { bitPacked s bits with
    srcAddr := s.dstAddr, srcLen := (bitPacked s bits).resLen, dstAddr := d, dstCap := c, aux := s.srcLen }

/-- BIT.UNPACK reads what BIT.PACK wrote. -/
theorem srcBytes_bitUnpackOperands {s : State} {bits : List Bool} (hfit : bytesFor bits.length ≤ s.dstCap.toNat)
    (d c : Word) : srcBytes (bitUnpackOperands s bits d c) = packBytes bits := by
  have hread := memRead_memWrite s s.dstAddr.toNat (packBytes bits)
  rw [length_packBytes, ← toNat_ofNat_of_le hfit] at hread
  exact hread

end Sys2Proof.Machine
end

section
/-! Bit packing (44_bitpack.md R170 to R174). -/

namespace Sys2Proof.Proofs

open Sys2Proof.Machine Sys2Proof.Spec

/-- Settles O45: the codes are free of prefixes, so the decoder finds each byte of the block at the end of its code. -/
theorem bitUnpackRule : Obligations.BitUnpackRule := by
  intro s X after hinv hcomplete hblock hranges hcap hlen hX hstream
  exact (hinv.decodableTable hcomplete).exec_bitUnpack_of_block hblock hranges hcap hlen hX hstream

/-- Settles O46: the packed bytes begin with the codes of the block. -/
theorem packUnpackRoundTrip : Obligations.PackUnpackRoundTrip := by
  intro s t d c hinv hcomplete hexec hdone hdst hshare hcap
  obtain ⟨⟨hblock, -, hout, -⟩, bits, hpack, rfl⟩ := eq_bitPacked_of_done hexec hdone
  obtain ⟨hcoded, hbits⟩ := packBits_eq_ok hpack
  rw [List.nil_append] at hbits
  have hfit : bytesFor bits.length ≤ s.dstCap.toNat := bytesFor_packBits_le hpack (Nat.zero_le _)
  have hlen : (bitPacked s bits).resLen.toNat = bytesFor bits.length := toNat_ofNat_of_le hfit
  have hsrc : InBuf s.params s.dstAddr (bitPacked s bits).resLen := by omega
  have htable : DecodableTable (bitUnpackOperands s bits d c) :=
    ⟨hcomplete, hinv.codeCanonical, hinv.nsymAgrees, hinv.maxlenAgrees⟩
  have hstream : streamBits (srcBytes (bitUnpackOperands s bits d c))
      = bitsOfBlock s (srcBytes s) ++ List.replicate (padCount bits.length) false := by
    rw [srcBytes_bitUnpackOperands hfit, streamBits_packBytes, ← hbits]
  obtain ⟨u, hrun, hu, hread, -⟩ := htable.exec_bitUnpack_of_block (X := srcBytes s) hblock ⟨hsrc, hdst, hshare⟩ hcap
    (length_srcBytes s) hcoded hstream
  refine ⟨u, hrun, by rw [hu], length_srcBytes s ▸ hread, ?_⟩
  rw [hu, bytesOfBits_eq_bytesFor]
  exact congrArg (fun b => BitVec.ofNat 32 (bytesFor (List.length b))) hbits.symm

/-- Settles O43: every byte adds its code, and the packed bytes hold those bits and the padding. -/
theorem bitPackRule : Obligations.BitPackRule := by
  intro s hblock hranges hcoded hfit
  rw [bytesOfBits_eq_bytesFor] at hfit ⊢
  have hpack : packBits s s.dstCap.toNat (srcBytes s) [] = .ok (bitsOfBlock s (srcBytes s)) := by
    have happend := packBits_append (bits := []) hcoded hfit []
    rwa [List.append_nil, List.nil_append, packBits] at happend
  refine ⟨_, packBytes (bitsOfBlock s (srcBytes s)), padCount (bitsOfBlock s (srcBytes s)).length,
    exec_bitPack_of_ok (firstError_bitPackChecks_eq_none.2 ⟨hblock, hranges⟩) hpack, padCount_lt _,
    streamBits_packBytes _, ?_⟩
  exact wrote_result_dstWrite ..

/-- Settles O44: packing reaches the byte after the coded ones, and that byte decides. -/
theorem bitPackErrors : Obligations.BitPackErrors := by
  intro s pre post v hblock hranges hsrc hpre hfit
  rw [bytesOfBits_eq_bytesFor] at hfit ⊢
  have hchecks := firstError_bitPackChecks_eq_none.2 ⟨hblock, hranges⟩
  have hreach : packBits s s.dstCap.toNat (srcBytes s) []
      = packBits s s.dstCap.toNat (v :: post) (bitsOfBlock s pre) :=
    hsrc ▸ packBits_append (bits := []) hpre hfit (v :: post)
  refine ⟨fun hv => ?_, fun hv hcap => ?_⟩
  · exact ⟨_, exec_bitPack_of_error hchecks (hreach.trans (packBits_of_uncoded hv ..)), bitPackFailed_spec rfl⟩
  · rw [bitsOfBlock_concat] at hcap
    exact ⟨_, exec_bitPack_of_error hchecks (hreach.trans (packBits_of_overflow hv hcap _)), bitPackFailed_spec rfl⟩

/-- Settles O60: within a code the decoder waits for the next bit, so the end of the stream there is detail 1; the code of
a lone symbol leaves a 1 bit no code, while the codes of two or more symbols fill the code space. -/
theorem bitUnpackErrors : Obligations.BitUnpackErrors := by
  intro s hinv hcomplete hblock hranges hcap
  have htable := hinv.decodableTable hcomplete
  have hchecks {v : Byte} (hv : s.len.get v ≠ 0) : firstError (bitUnpackChecks s) = none :=
    htable.firstError_bitUnpackChecks hblock hranges hcap fun _ => List.ne_nil_of_mem (mem_coded.2 hv)
  rw [symbols_eq_coded]
  refine ⟨fun X v tail hlen hX hv hprefix hne hstream => ?_, fun v k after hlone hk hstream => ?_, fun htwo => ?_⟩
  · have hdecode := htable.decodeMany_of_decodeOne_error hX hlen (htable.decodeOne_of_cut hprefix hne)
    exact exec_bitUnpack_of_error (d := 1) (hchecks hv) (hstream ▸ hdecode)
  · obtain ⟨hv, hcode, -⟩ := htable.lone_spec hlone
    have hzeros : bitsOfBlock s (List.replicate k v) = List.replicate k false := by
      simp [bitsOfBlock, List.flatMap_replicate, hcode]
    have hX : ∀ u ∈ List.replicate k v, s.len.get u ≠ 0 := fun u hu => List.eq_of_mem_replicate hu ▸ hv
    have hdecode := htable.decodeMany_of_decodeOne_error hX (by simpa using hk) (htable.decodeOne_of_lone hlone after)
    rw [hzeros, ← hstream] at hdecode
    exact exec_bitUnpack_of_error (d := 2) (hchecks hv) hdecode
  · obtain ⟨v, hv⟩ := List.exists_mem_of_length_pos (by omega : 0 < (coded s.len).length)
    have hpass := hchecks (mem_coded.1 hv)
    cases hdecode : decodeMany (codeList s) s.maxlen.toNat s.aux.toNat (streamBits (srcBytes s)) with
    | ok r => exact ⟨_, exec_bitUnpack_of_ok hpass hdecode, .inl rfl⟩
    | error e =>
      obtain rfl := htable.eq_one_of_decodeMany_error htwo hdecode
      exact ⟨_, exec_bitUnpack_of_error hpass hdecode, .inr rfl⟩

end Sys2Proof.Proofs
end

section
/-! The checksum tells two blocks that differ in one byte apart (41_crc.md R130): every step of the fold is injective, in
its state and in its byte. -/

namespace Sys2Proof.Machine

/-- The polynomial has its top bit set, so the bit that a shift takes out shows in the top bit of the result. -/
theorem getLsbD_crcShift_top (st : Word) : (crcShift st).getLsbD 31 = st.getLsbD 0 := by
  unfold crcShift
  split
  next h => simpa using h.symm
  next h => simpa using h

theorem crcShift_injective : Function.Injective crcShift := by
  intro a b h
  have hlow : a.getLsbD 0 = b.getLsbD 0 := by rw [← getLsbD_crcShift_top, h, getLsbD_crcShift_top]
  have hshift : a >>> 1 = b >>> 1 := by
    unfold crcShift at h
    rw [hlow] at h
    split at h
    · exact (BitVec.xor_left_inj _).1 h
    · exact h
  apply BitVec.eq_of_getLsbD_eq
  intro i _
  cases i with
  | zero => exact hlow
  | succ i => simpa [Nat.add_comm] using congrArg (BitVec.getLsbD · i) hshift

theorem crcStep_state_injective (b : Byte) : Function.Injective (crcStep · b) :=
  (crcShift_injective.iterate 8).comp fun _ _ => (BitVec.xor_left_inj _).1

theorem setWidth_byte_injective : Function.Injective (BitVec.setWidth 32 : Byte → Word) := by
  intro u v h
  have := congrArg (BitVec.setWidth 8) h
  simpa using this

theorem crcStep_byte_injective (st : Word) : Function.Injective (crcStep st) :=
  (crcShift_injective.iterate 8).comp fun _ _ h => setWidth_byte_injective ((BitVec.xor_right_inj _).1 h)

theorem crcFold_injective (S : List Byte) : Function.Injective (crcFold · S) := by
  induction S with
  | nil => exact Function.injective_id
  | cons b S ih => exact ih.comp (crcStep_state_injective b)

/-- Blocks that differ in exactly one byte have different checksums (45_container.md R187). -/
theorem crc32_ne_of_byte_ne (A B : List Byte) {u v : Byte} (h : u ≠ v) : crc32 (A ++ u :: B) ≠ crc32 (A ++ v :: B) := by
  intro heq
  have hfold : crcFold crcMask (A ++ u :: B) = crcFold crcMask (A ++ v :: B) := (BitVec.xor_left_inj _).1 heq
  rw [crcFold_append, crcFold_append] at hfold
  exact h (crcStep_byte_injective _ (crcFold_injective B hfold))

end Sys2Proof.Machine
end

section
/-! The container as bytes (30_encoding.md R90 to R94, 45_container.md R180): the fields that stand in it, the checks of its
flags byte, and the path that the flags byte selects. -/

namespace Sys2Proof.Machine

open Sys2Proof.Spec

/-! ### Big-endian fields -/

/-- The big-endian field of the statements is the model's (20_memory.md R67). -/
theorem be_eq_toBe32 (v : Word) : be v = toBe32 v := by
  simp [be, toBe32, BitVec.extractLsb', Nat.shiftRight_eq_div_pow]

theorem be32At_be (v : Word) (post : List Byte) : be32At (be v ++ post) 0 = v := by
  rw [be_eq_toBe32]
  exact be32At_toBe32 v [] post

theorem be32At_eq_drop (B : List Byte) (o : Nat) : be32At B o = be32At (B.drop o) 0 := by
  simp [be32At, List.getD_eq_getElem?_getD]

theorem be_be32At_cons (a b c d : Byte) (B : List Byte) : be (be32At (a :: b :: c :: d :: B) 0) = [a, b, c, d] := by
  have ha := a.isLt
  have hb := b.isLt
  have hc := c.isLt
  have hd := d.isLt
  simp only [be, be32At, List.getD_cons_zero, List.getD_cons_succ, toNat_append_byte, List.cons.injEq, and_true,
    BitVec.toNat_eq, BitVec.toNat_ofNat]
  omega

/-- A field has a value exactly when its 4 bytes are those of the value. -/
theorem be32At_eq_iff {B : List Byte} {o : Nat} (h : o + 4 ≤ B.length) (v : Word) :
    be32At B o = v ↔ (B.drop o).take 4 = be v := by
  have hlen : 4 ≤ (B.drop o).length := by
    rw [List.length_drop]
    omega
  rw [be32At_eq_drop]
  match B.drop o, hlen with
  | a :: b :: c :: d :: rest, _ =>
    constructor
    · rintro rfl
      exact (be_be32At_cons a b c d rest).symm
    · intro hbytes
      rw [← be32At_be v rest, ← hbytes]
      rfl

/-! ### The fields of a container -/

@[simp] theorem length_be (v : Word) : (be v).length = 4 := rfl

@[simp] theorem length_containerBytes (m z c : Word) (f : Byte) (P : List Byte) :
    (containerBytes m z c f P).length = 13 + P.length := by
  simp only [containerBytes, List.length_append, length_be, List.length_singleton]

/-- The model's container is the one of the statements, with the checksum of its payload. -/
theorem container_eq_containerBytes (m z : Word) (f : Byte) (P : List Byte) :
    container m P z f = containerBytes m z (crc32 P) f P := by
  simp only [container, header, containerBytes, be_eq_toBe32]

theorem take_containerBytes (m z c : Word) (f : Byte) (P : List Byte) : (containerBytes m z c f P).take 4 = be m := rfl

theorem size_containerBytes (m z c : Word) (f : Byte) (P : List Byte) : be32At (containerBytes m z c f P) 4 = z := by
  rw [be32At_eq_drop]
  exact be32At_be z (f :: be c ++ P)

theorem flags_containerBytes (m z c : Word) (f : Byte) (P : List Byte) : (containerBytes m z c f P).getD 8 0 = f := rfl

theorem checksum_containerBytes (m z c : Word) (f : Byte) (P : List Byte) :
    ((containerBytes m z c f P).drop 9).take 4 = be c := rfl

theorem drop_containerBytes (m z c : Word) (f : Byte) (P : List Byte) : (containerBytes m z c f P).drop 13 = P := rfl

/-- Different words have different bytes. -/
theorem be_injective : Function.Injective be := by
  intro v w h
  rw [← be32At_be v [], h, be32At_be]

/-! ### The flags byte -/

theorem flagsReservedOk_iff (f : Byte) : flagsReservedOk f = true ↔ f.toNat / 8 = 0 := by
  have hf := f.isLt
  rw [flagsReservedOk, beq_iff_eq, BitVec.toNat_eq, BitVec.extractLsb'_toNat, Nat.shiftRight_eq_div_pow,
    show (0 : BitVec 5).toNat = 0 from rfl]
  omega

theorem flagsCombinationOk_iff (f : Byte) :
    flagsCombinationOk f = true ↔ ¬ (f.getLsbD 2 = true ∧ f.getLsbD 1 = true) := by
  rw [flagsCombinationOk, Bool.not_eq_true', ← Bool.not_eq_true, Bool.and_eq_true]

/-- The path code of the statements is the code of the model's path (30_encoding.md R93). -/
theorem pathCode_eq (f : Byte) : pathCode f = (pathOf f).code.toNat := by
  unfold pathCode pathOf
  split
  · rfl
  split
  · rfl
  split <;> rfl

theorem pathOf_eq_transform_iff (f : Byte) : pathOf f = .transform ↔ pathCode f = 1 := by
  rw [pathCode_eq]
  cases pathOf f <;> decide

theorem pathCode_eq_three_iff (f : Byte) : pathCode f = 3 ↔ f.getLsbD 2 = true := by
  unfold pathCode
  split
  next h => exact iff_of_true rfl h
  next h =>
    refine iff_of_false ?_ h
    split
    · decide
    split <;> decide

/-- RES_FLAGS as a number: the flags byte, and the path code above it (10_state.md R35). -/
theorem resFlagsWord_eq_ofNat (f : Byte) :
    0#22 ++ (pathOf f).code ++ f = BitVec.ofNat 32 (f.toNat + 0x100 * pathCode f) := by
  apply BitVec.eq_of_toNat_eq
  have hf := f.isLt
  have hp := (pathOf f).code.isLt
  have hpath : (0#22 ++ (pathOf f).code).toNat = (pathOf f).code.toNat := by
    rw [BitVec.toNat_append, BitVec.toNat_ofNat, Nat.zero_mod, Nat.zero_shiftLeft, Nat.zero_or]
  rw [toNat_append_byte, hpath, pathCode_eq, BitVec.toNat_ofNat]
  omega

end Sys2Proof.Machine
end

section
/-! What the container commands end in (45_container.md R182, R184, R186): their checks give the error of the statements, and
without one they frame the payload, report where it stands, or store copies of a byte. -/

namespace Sys2Proof.Machine

open Sys2Proof.Spec

theorem codes_firstError_checkAuxSize (s : State) (cs : List Check) :
    (firstError (checkAuxSize s :: cs)).map CmdError.codes
      = if ¬ BlockOk s s.aux then some (1, 2) else (firstError cs).map CmdError.codes := by
  rw [checkAuxSize, codes_firstError_cons]
  simp only [exceedsBlock_iff, not_le]
  rfl

theorem codes_firstError_checkSrc (s : State) (cs : List Check) :
    (firstError (checkSrc s :: cs)).map CmdError.codes
      = if ¬ InBuf s.params s.srcAddr s.srcLen then some (8, 1) else (firstError cs).map CmdError.codes := by
  rw [checkSrc, codes_firstError_cons]
  simp only [Bool.not_eq_true', ← Bool.not_eq_true, inBounds_iff_inBuf]
  rfl

/-! ### CTR.FRAME -/

/-- The checks of CTR.FRAME (45_container.md R182). -/
def ctrFrameChecks (f : Byte) (s : State) : List Check :=
  checkAuxSize s :: checkRanges s ++
    [(!flagsReservedOk f, ⟨.illegalOperand, 1⟩),
     (!flagsCombinationOk f, ⟨.illegalOperand, 2⟩),
     (f.getLsbD 2 && s.aux != s.srcLen, ⟨.illegalOperand, 3⟩),
     checkCap s (headerLen + s.srcLen.toNat)]

/-- The state in which CTR.FRAME ends when its checks pass (45_container.md R182). -/
def ctrFramed (f : Byte) (s : State) : State :=
  result (BitVec.ofNat 32 (13 + s.srcLen.toNat)) (crc32 (srcBytes s))
    (dstWrite s (containerBytes s.params.magic s.aux (crc32 (srcBytes s)) f (srcBytes s)))

/-- The first failing check decides what CTR.FRAME ends in. -/
theorem exec_ctrFrame_eq (f : Byte) (s : State) :
    exec (.ctrFrame f) s = .next ((firstError (ctrFrameChecks f s)).elim (ctrFramed f s) fun e =>
      raiseError (opcode (.ctrFrame f)) e s) := by
  dsimp only [exec, execCtrFrame]
  rw [← ctrFrameChecks, container_eq_containerBytes]
  cases firstError (ctrFrameChecks f s) with
  | some e => rfl
  | none => rfl

theorem codes_ctrFrame (f : Byte) (s : State) :
    (firstError (ctrFrameChecks f s)).map CmdError.codes = commandError s (.ctrFrame f) := by
  rw [ctrFrameChecks, List.cons_append, codes_firstError_checkAuxSize, codes_firstError_checkRanges,
    codes_firstError_cons, codes_firstError_cons, codes_firstError_cons, codes_firstError_checkCap]
  simp only [Bool.not_eq_true', ← Bool.not_eq_true, flagsReservedOk_iff, flagsCombinationOk_iff, not_not,
    Bool.and_eq_true, bne_iff_ne]
  rfl

theorem exec_ctrFrame_of_none {f : Byte} {s : State} (h : commandError s (.ctrFrame f) = none) :
    exec (.ctrFrame f) s = .next (ctrFramed f s) := by
  rw [← codes_ctrFrame, Option.map_eq_none_iff] at h
  rw [exec_ctrFrame_eq, h, Option.elim_none]

theorem exec_ctrFrame_of_some {f : Byte} {s : State} {c d : Nat} (h : commandError s (.ctrFrame f) = some (c, d)) :
    exec (.ctrFrame f) s = .next (errorState 0x50 c d s) := by
  rw [exec_ctrFrame_eq, elim_firstError_of_codes ((codes_ctrFrame f s).trans h)]
  rfl

/-- The conditions under which CTR.FRAME succeeds (45_container.md R182). -/
theorem commandError_ctrFrame_eq_none_iff {f : Byte} {s : State} :
    commandError s (.ctrFrame f) = none
      ↔ BlockOk s s.aux ∧ RangesOk s ∧ FlagsOk f ∧ (f.getLsbD 2 = true → s.aux = s.srcLen)
        ∧ 13 + s.srcLen.toNat ≤ s.dstCap.toNat := by
  rw [commandError]
  constructor
  · intro h
    split at h
    · cases h
    next hblock =>
    obtain ⟨hranges, hrest⟩ := rangeError_eq_none h
    split at hrest
    · cases hrest
    next hreserved =>
    split at hrest
    · cases hrest
    next hcomb =>
    split at hrest
    · cases hrest
    next hsize =>
    split at hrest
    · cases hrest
    next hcap =>
    exact ⟨not_not.1 hblock, hranges, ⟨not_not.1 hreserved, hcomb⟩, fun hraw => not_not.1 fun hne => hsize ⟨hraw, hne⟩,
      not_lt.1 hcap⟩
  · rintro ⟨hblock, hranges, ⟨hreserved, hcomb⟩, hsize, hcap⟩
    rw [if_neg (not_not.2 hblock), rangeError_of_rangesOk hranges, if_neg (not_not.2 hreserved), if_neg hcomb,
      if_neg fun ⟨hraw, hne⟩ => hne (hsize hraw), if_neg hcap.not_gt]

/-- A CTR.FRAME that reports success passed its checks. -/
theorem eq_ctrFramed_of_done {f : Byte} {s t : State} (h : exec (.ctrFrame f) s = .next t)
    (hdone : t.status.done = true) : commandError s (.ctrFrame f) = none ∧ t = ctrFramed f s := by
  cases herr : commandError s (.ctrFrame f) with
  | none =>
    rw [exec_ctrFrame_of_none herr] at h
    exact ⟨rfl, (Host.Outcome.next.inj h).symm⟩
  | some e =>
    rw [exec_ctrFrame_of_some herr] at h
    rw [← Host.Outcome.next.inj h] at hdone
    cases hdone

/-! ### CTR.UNFRAME -/

/-- The checks of CTR.UNFRAME: the source range, then the container that stands there (45_container.md R183, R184). -/
def ctrUnframeChecks (s : State) : List Check := checkSrc s :: containerChecks s.params (srcBytes s)

/-- The state in which CTR.UNFRAME ends for a container with payload `P`, size `z` and flags `f` when its checks pass
(45_container.md R184): the decode input of a TRANSFORM payload starts after the primary index. -/
def ctrUnframed (P : List Byte) (z : Word) (f : Byte) (s : State) : State :=
  result
    (BitVec.ofNat 32 (if pathCode f = 3 then min P.length z.toNat else if pathCode f = 1 then P.length - 4 else P.length))
    z
    { locate f (if pathCode f = 1 then 17 else 13) (if pathCode f = 1 then be32At P 0 else 0) s with
      status := { s.status with warn := if pathCode f = 3 ∧ P.length ≠ z.toNat then true else s.status.warn } }

/-- The first failing check decides what CTR.UNFRAME ends in. -/
theorem exec_ctrUnframe_eq (s : State) :
    exec .ctrUnframe s = .next ((firstError (ctrUnframeChecks s)).elim
      (ctrUnframed ((srcBytes s).drop 13) (be32At (srcBytes s) 4) ((srcBytes s).getD 8 0) s) fun e =>
        raiseError (opcode .ctrUnframe) e s) := by
  rw [ctrUnframeChecks, ← List.singleton_append, firstError_append]
  dsimp only [exec, execCtrUnframe]
  cases firstError [checkSrc s] with
  | some e => rfl
  | none =>
    cases firstError (containerChecks s.params (srcBytes s)) with
    | some e => rfl
    | none =>
      dsimp only [Option.or_none, Option.elim_none, flagsByte]
      unfold ctrUnframed
      rw [pathCode_eq, List.length_drop, ← be32At_eq_drop]
      cases hpath : pathOf ((srcBytes s).getD 8 0) with
      | raw =>
        cases hsize : sizeMismatch ((srcBytes s).length - headerLen) (be32At (srcBytes s) 4).toNat with
        | true =>
          have hwarn : Path.raw.code.toNat = 3 ∧ (srcBytes s).length - 13 ≠ (be32At (srcBytes s) 4).toNat :=
            ⟨rfl, bne_iff_ne.1 hsize⟩
          rw [if_pos hwarn]
          rfl
        | false =>
          have hkeep : ¬ (Path.raw.code.toNat = 3 ∧ (srcBytes s).length - 13 ≠ (be32At (srcBytes s) 4).toNat) :=
            fun ⟨_, hne⟩ => hne (bne_eq_false_iff_eq.1 hsize)
          rw [if_neg hkeep]
          rfl
      | degenerate => rfl
      | transform => rfl
      | plain => rfl

theorem codes_ctrUnframe (s : State) :
    (firstError (ctrUnframeChecks s)).map CmdError.codes = commandError s .ctrUnframe := by
  rw [ctrUnframeChecks, codes_firstError_checkSrc, containerChecks, commandError]
  by_cases hlen : s.srcLen.toNat < 13
  · simp [hlen, headerLen, CmdError.codes, ErrClass.code]
  · have hfield {o : Nat} (ho : o ≤ 9) (v : Word) : be32At (srcBytes s) o = v ↔ ((srcBytes s).drop o).take 4 = be v :=
      be32At_eq_iff (by rw [length_srcBytes]; omega) v
    simp only [codes_firstError_cons, Bool.not_eq_true', ← Bool.not_eq_true, flagsReservedOk_iff, flagsCombinationOk_iff,
      not_not, Bool.and_eq_true, bne_iff_ne, ne_eq, decide_eq_true_eq, pathOf_eq_transform_iff, hfield (Nat.zero_le 9),
      hfield le_rfl, length_srcBytes, headerLen, flagsByte, List.drop_zero]
    rfl

theorem exec_ctrUnframe_of_none {s : State} (h : commandError s .ctrUnframe = none) :
    exec .ctrUnframe s
      = .next (ctrUnframed ((srcBytes s).drop 13) (be32At (srcBytes s) 4) ((srcBytes s).getD 8 0) s) := by
  rw [← codes_ctrUnframe, Option.map_eq_none_iff] at h
  rw [exec_ctrUnframe_eq, h, Option.elim_none]

theorem exec_ctrUnframe_of_some {s : State} {c d : Nat} (h : commandError s .ctrUnframe = some (c, d)) :
    exec .ctrUnframe s = .next (errorState 0x51 c d s) := by
  rw [exec_ctrUnframe_eq, elim_firstError_of_codes ((codes_ctrUnframe s).trans h)]
  rfl

section
variable {s : State} {P : List Byte} {z c : Word} {f : Byte}

theorem srcLen_of_containerBytes (hbytes : srcBytes s = containerBytes s.params.magic z c f P) :
    s.srcLen.toNat = 13 + P.length := by
  rw [← length_srcBytes, hbytes, length_containerBytes]

/-- The error of CTR.UNFRAME over the bytes of a container, whatever its fields are. -/
theorem commandError_ctrUnframe_of_containerBytes (hsrc : InBuf s.params s.srcAddr s.srcLen)
    (hbytes : srcBytes s = containerBytes s.params.magic z c f P) :
    commandError s .ctrUnframe
      = if c ≠ crc32 P then some (3, 0)
        else if f.toNat / 8 ≠ 0 then some (2, 3)
        else if f.getLsbD 2 = true ∧ f.getLsbD 1 = true then some (2, 4)
        else if s.params.maxBlock.toNat < z.toNat then some (1, 3)
        else if pathCode f = 1 ∧ P.length < 4 then some (2, 5)
        else none := by
  have hlen := srcLen_of_containerBytes hbytes
  simp only [commandError, hbytes, take_containerBytes, checksum_containerBytes, drop_containerBytes,
    flags_containerBytes, size_containerBytes, be_injective.ne_iff]
  rw [if_neg (not_not.2 hsrc), if_neg (by omega), if_neg (not_not.2 rfl), hlen, Nat.add_sub_cancel_left]

/-- CTR.UNFRAME accepts a container with a right checksum, valid flags and a block length the hardware accepts
(45_container.md R183). -/
theorem exec_ctrUnframe_of_container (hsrc : InBuf s.params s.srcAddr s.srcLen)
    (hbytes : srcBytes s = containerBytes s.params.magic z (crc32 P) f P) (hflags : FlagsOk f) (hblock : BlockOk s z)
    (hindex : pathCode f = 1 → 4 ≤ P.length) : exec .ctrUnframe s = .next (ctrUnframed P z f s) := by
  obtain ⟨hreserved, hcomb⟩ := hflags
  have hnone : commandError s .ctrUnframe = none := by
    rw [commandError_ctrUnframe_of_containerBytes hsrc hbytes, if_neg (not_not.2 rfl), if_neg (not_not.2 hreserved),
      if_neg hcomb, if_neg hblock.not_gt, if_neg fun ⟨hpath, hshort⟩ => (hindex hpath).not_gt hshort]
  rw [exec_ctrUnframe_of_none hnone, hbytes, drop_containerBytes, size_containerBytes, flags_containerBytes]

/-- CTR.UNFRAME refuses a container whose checksum field is not that of its payload (45_container.md R183). -/
theorem exec_ctrUnframe_of_checksum_ne (hsrc : InBuf s.params s.srcAddr s.srcLen)
    (hbytes : srcBytes s = containerBytes s.params.magic z c f P) (hne : c ≠ crc32 P) :
    exec .ctrUnframe s = .next (errorState 0x51 3 0 s) :=
  exec_ctrUnframe_of_some (by rw [commandError_ctrUnframe_of_containerBytes hsrc hbytes, if_pos hne])

end

/-! ### CTR.UNFRAME after CTR.FRAME -/

/-- The state in which CTR.FRAME ended, with the operands of CTR.UNFRAME over its output (45_container.md R184). -/
def ctrUnframeOperands (f : Byte) (s : State) : State :=
  { ctrFramed f s with srcAddr := s.dstAddr, srcLen := (ctrFramed f s).resLen }

/-- A lemma of its own, as a comparison of the two memories by evaluation would run the writes of the header. -/
theorem buf_ctrUnframeOperands (f : Byte) (s : State) : (ctrUnframeOperands f s).buf = (ctrFramed f s).buf := by
  rw [ctrUnframeOperands]

/-- CTR.UNFRAME reads what CTR.FRAME wrote. -/
theorem srcBytes_ctrUnframeOperands {f : Byte} {s : State} (hcap : 13 + s.srcLen.toNat ≤ s.dstCap.toNat) :
    srcBytes (ctrUnframeOperands f s)
      = containerBytes s.params.magic s.aux (crc32 (srcBytes s)) f (srcBytes s) := by
  have hlen : (ctrUnframeOperands f s).srcLen.toNat = 13 + s.srcLen.toNat := toNat_ofNat_of_le hcap
  obtain ⟨-, hread, -⟩ : Wrote s (ctrFramed f s) _ _ _ := wrote_result_dstWrite ..
  rw [length_containerBytes, length_srcBytes, ← hlen] at hread
  have hsame : srcBytes (ctrUnframeOperands f s)
      = memRead (ctrFramed f s) s.dstAddr.toNat (ctrUnframeOperands f s).srcLen.toNat :=
    memRead_congr fun _ _ => readBuf_congr (by rw [buf_ctrUnframeOperands]) rfl
  rw [hsame, hread]

/-! ### CTR.REPL -/

/-- The checks of CTR.REPL (45_container.md R186). -/
def ctrReplChecks (s : State) : List Check :=
  checkAuxSize s :: checkRanges s ++ [(s.srcLen != 1, ⟨.illegalOperand, 4⟩), checkCap s s.aux.toNat]

/-- The state in which CTR.REPL ends when its checks pass (45_container.md R186). -/
def ctrReplicated (s : State) : State :=
  result s.aux (BitVec.ofNat 32 (readBuf s s.srcAddr.toNat).toNat)
    (dstWrite s (List.replicate s.aux.toNat (readBuf s s.srcAddr.toNat)))

/-- The first failing check decides what CTR.REPL ends in. -/
theorem exec_ctrRepl_eq (s : State) :
    exec .ctrRepl s = .next ((firstError (ctrReplChecks s)).elim (ctrReplicated s) fun e =>
      raiseError (opcode .ctrRepl) e s) := by
  dsimp only [exec, execCtrRepl]
  rw [← ctrReplChecks, ← BitVec.ofNat_toNat]
  cases firstError (ctrReplChecks s) with
  | some e => rfl
  | none => rfl

theorem codes_ctrRepl (s : State) :
    (firstError (ctrReplChecks s)).map CmdError.codes = commandError s .ctrRepl := by
  rw [ctrReplChecks, List.cons_append, codes_firstError_checkAuxSize, codes_firstError_checkRanges,
    codes_firstError_cons, codes_firstError_checkCap]
  simp only [bne_iff_ne, ne_eq, BitVec.toNat_eq]
  rfl

theorem exec_ctrRepl_of_none {s : State} (h : commandError s .ctrRepl = none) :
    exec .ctrRepl s = .next (ctrReplicated s) := by
  rw [← codes_ctrRepl, Option.map_eq_none_iff] at h
  rw [exec_ctrRepl_eq, h, Option.elim_none]

theorem exec_ctrRepl_of_some {s : State} {c d : Nat} (h : commandError s .ctrRepl = some (c, d)) :
    exec .ctrRepl s = .next (errorState 0x52 c d s) := by
  rw [exec_ctrRepl_eq, elim_firstError_of_codes ((codes_ctrRepl s).trans h)]
  rfl

theorem commandError_ctrRepl_eq_none {s : State} (hblock : BlockOk s s.aux) (hranges : RangesOk s)
    (hone : s.srcLen.toNat = 1) (hcap : s.aux.toNat ≤ s.dstCap.toNat) : commandError s .ctrRepl = none := by
  rw [commandError, if_neg (not_not.2 hblock), rangeError_of_rangesOk hranges, if_neg (not_not.2 hone),
    if_neg hcap.not_gt]

end Sys2Proof.Machine
end

section
/-! The block container (45_container.md R180 to R187). -/

namespace Sys2Proof.Proofs

open Sys2Proof.Machine Sys2Proof.Spec

/-- Settles O48: the checks read the fields of the container. -/
theorem ctrUnframeRule : Obligations.CtrUnframeRule := by
  intro s P z f hsrc hbytes hflags hblock hindex
  refine ⟨ctrUnframed P z f s, exec_ctrUnframe_of_container hsrc hbytes hflags hblock hindex, ?_, fun hfit => ?_⟩
  · rw [← resFlagsWord_eq_ofNat]
    rfl
  · exact ⟨if_pos hfit, if_pos hfit⟩

/-- Settles O49: what stands at DST_ADDR is the container of the payload, and a RAW payload has the size it was framed
with. -/
theorem frameUnframeRoundTrip : Obligations.FrameUnframeRoundTrip := by
  intro s t f hexec hdone hindex
  obtain ⟨hnone, rfl⟩ := eq_ctrFramed_of_done hexec hdone
  obtain ⟨hblock, ⟨-, hdst, -⟩, hflags, hraw, hcap⟩ := commandError_ctrFrame_eq_none_iff.1 hnone
  have hlen : (ctrFramed f s).resLen.toNat = 13 + s.srcLen.toNat := toNat_ofNat_of_le hcap
  have hsrc : InBuf s.params s.dstAddr (ctrFramed f s).resLen := by omega
  obtain ⟨u, hrun, hu, -⟩ := ctrUnframeRule (ctrUnframeOperands f s) (srcBytes s) s.aux f hsrc
    (srcBytes_ctrUnframeOperands hcap) hflags hblock (by rwa [length_srcBytes])
  rw [length_srcBytes] at hu
  have hsize (hpath : pathCode f = 3) : s.aux = s.srcLen := hraw ((pathCode_eq_three_iff f).1 hpath)
  have hdecode : (if pathCode f = 3 then min s.srcLen.toNat s.aux.toNat
      else if pathCode f = 1 then s.srcLen.toNat - 4 else s.srcLen.toNat)
        = if pathCode f = 1 then s.srcLen.toNat - 4 else s.srcLen.toNat := by
    by_cases hpath : pathCode f = 3
    · simp [hpath, hsize hpath]
    · rw [if_neg hpath]
  rw [hdecode] at hu
  refine ⟨u, hrun, by rw [hu], ?_, by rw [hu], by rw [hu], ?_, by rw [hu, buf_ctrUnframeOperands]⟩
  · rw [hu]
    exact if_neg fun ⟨hpath, hne⟩ => hne (hsize hpath ▸ rfl)
  · rw [hu]
    exact toNat_ofNat_of_le (c := s.srcLen) (by split <;> omega)

/-- Settles O50: the checksums of the two payloads differ, and the checksum is checked before the flags and the size. -/
theorem payloadCorruptionDetected : Obligations.PayloadCorruptionDetected :=
  fun _ A B _ _ _ _ _ hsrc =>
    ⟨fun hne hbytes => exec_ctrUnframe_of_checksum_ne hsrc hbytes (crc32_ne_of_byte_ne A B hne),
      fun hbytes hne => exec_ctrUnframe_of_checksum_ne hsrc hbytes hne⟩

/-- Settles O47. -/
theorem ctrFrameRule : Obligations.CtrFrameRule :=
  fun s _ => ⟨fun hblock hranges hflags hraw hcap =>
    ⟨_, exec_ctrFrame_of_none (commandError_ctrFrame_eq_none_iff.2 ⟨hblock, hranges, hflags, hraw, hcap⟩),
      wrote_result_dstWrite s _ _ _⟩, fun _ _ => exec_ctrFrame_of_some⟩

/-- Settles O51. -/
theorem ctrReplRule : Obligations.CtrReplRule := by
  intro s
  refine ⟨fun hblock hranges hone hcap => ?_, fun c d => exec_ctrRepl_of_some⟩
  exact ⟨_, exec_ctrRepl_of_none (commandError_ctrRepl_eq_none hblock hranges hone hcap), wrote_result_dstWrite s _ _ _⟩

end Sys2Proof.Proofs
end

section
/-! How a command leaves ERR and ERRCODE (60_exceptions.md R200, R214): a success keeps ERR, an error records itself, and
what runs while ERR is 1 is an acknowledgement, which clears both. -/

namespace Sys2Proof.Machine

open Sys2Proof.Spec

/-- A command that raises no error does not set ERR (40_control.md R124). -/
theorem Works.err {i : Instr} {s u : State} (h : Works i s u) (herr : s.status.err = false) : u.status.err = false := by
  cases h with
  | errClear => rfl
  | _ => exact herr

theorem ErrClass.one_le_code (c : ErrClass) : 1 ≤ c.code.toNat := by cases c <;> decide

/-! ### The words that acknowledge an error -/

/-- A word that is not discarded while ERR is 1 acknowledges the error (40_control.md R120). -/
theorem acknowledges_of_not_discarded {s : State} {w : Word} (herr : s.status.err = true)
    (h : discarded s w = false) : acknowledges w = true := by
  simpa [discarded, herr] using h

/-- ERR.CLEAR and SRESET clear ERR and ERRCODE (40_control.md R126, R127). -/
theorem cleared_of_runAccepted {s t : State} (hack : acknowledges s.cmd = true) (ht : runAccepted s = .next t) :
    t.status.err = false ∧ t.errcode = 0 := by
  rcases (acknowledges_iff _).1 hack with hw | hw
  · have hdec : decode s.cmd = .ok .errClear := hw ▸ decode_encode .errClear
    cases (runAccepted_of_ok hdec).symm.trans ht
    exact ⟨rfl, rfl⟩
  · have hdec : decode s.cmd = .ok .sreset := hw ▸ decode_encode .sreset
    cases (runAccepted_of_ok hdec).symm.trans ht
    exact ⟨rfl, rfl⟩

/-! ### What `settleWbusy` leaves alone -/

@[simp] theorem settleWbusy_busy (s t : State) : (settleWbusy s t).status.busy = t.status.busy := by
  rcases settleWbusy_cases s t with e | e <;> rw [e]

@[simp] theorem settleWbusy_err (s t : State) : (settleWbusy s t).status.err = t.status.err := by
  rcases settleWbusy_cases s t with e | e <;> rw [e]

@[simp] theorem settleWbusy_errcode (s t : State) : (settleWbusy s t).errcode = t.errcode := by
  rcases settleWbusy_cases s t with e | e <;> rw [e]

theorem cleared_of_completeSpan {s t : State} (hack : acknowledges s.cmd = true) (ht : completeSpan s = .next t) :
    t.status.err = false ∧ t.errcode = 0 := by
  obtain ⟨u, hu, rfl⟩ := completeSpan_next ht
  simpa using cleared_of_runAccepted (s := { s with spanDrop := false }) hack hu

theorem busy_of_completeSpan {s t : State} (ht : completeSpan s = .next t) : t.status.busy = false := by
  obtain ⟨u, hu, rfl⟩ := completeSpan_next ht
  simpa using (runAccepted_completes hu).2.2

@[simp] theorem writeReg_errcode (s : State) (r : Reg) (w : Word) : (writeReg s r w).errcode = s.errcode := by
  cases r <;> rfl

end Sys2Proof.Machine
end

section
/-! The error record over a command and over a step (60_exceptions.md R200, R214, R226). -/

namespace Sys2Proof.Proofs

open Sys2Proof.Machine Sys2Proof.Spec

/-- Settles O21: the step without an event completes the running command, and a completion leaves BUSY 0. -/
theorem emptyScheduleStep : Obligations.EmptyScheduleStep := by
  intro s hh
  rcases serveNext_cases s with ⟨e, rest, hcons, -⟩ | ⟨-, hb, hk⟩ | ⟨-, hb, hk⟩
  · cases hh.symm.trans hcons
  · obtain ⟨t, ht⟩ := exists_next_completeSpan s
    exact ⟨fun hidle => by simp [hb] at hidle, fun _ => ⟨t, hk.trans ht, busy_of_completeSpan ht⟩⟩
  · exact ⟨fun _ => hk, fun hbusy => by simp [hb] at hbusy⟩

/-- Settles O54: every way in which a command ends is a success, which keeps ERR, or an error completion, whose ERRCODE
holds the class and the opcode. -/
theorem everyCommandEnds : Obligations.EveryCommandEnds := by
  intro i s herr
  obtain ⟨t, ht, hends⟩ := exec_ends i s
  refine ⟨t, ht, hends.completes.2.2, ?_⟩
  cases hends with
  | succeeds hw => exact .inl ⟨rfl, hw.err herr⟩
  | resets => exact .inl ⟨rfl, rfl⟩
  | fails _ e =>
    refine .inr ⟨rfl, rfl, ?_⟩
    rw [raiseError_errcode, errcodeWord_class, errcodeWord_opcode, errcodeWord_reserved]
    exact ⟨e.cls.one_le_code, e.cls.code_le, rfl, rfl⟩

/-- Settles O58: a word accepted, or a command that runs, while ERR is 1 is ERR.CLEAR or SRESET; no other event but the
hardware reset touches ERR or ERRCODE. -/
theorem errorsDoNotNest : Obligations.ErrorsDoNotNest := by
  intro s t hinv herr ht
  rcases step_next_cases ht with ⟨e, rest, hh, hs⟩ | ⟨hh, hb, hc⟩ | rfl
  · cases hs with
    | runs hb hd hrun =>
      have hack := acknowledges_of_not_discarded herr hd
      obtain ⟨hclear, hcode⟩ := cleared_of_runAccepted hack hrun
      exact .inr ⟨hclear, hcode, .inr (.inl ⟨_, rest, hb, hh, (acknowledges_iff _).1 hack⟩)⟩
    | completes hb hc =>
      have hack := hinv.busyErr hb herr
      obtain ⟨hclear, hcode⟩ := cleared_of_completeSpan (s := { s with host := rest }) hack hc
      exact .inr ⟨hclear, hcode, .inr (.inr ⟨hb, (acknowledges_iff _).1 hack, .inr ⟨rest, hh⟩⟩)⟩
    | resets => exact .inr ⟨rfl, rfl, .inl ⟨rest, hh⟩⟩
    | stores w =>
      rw [writeReg_status, writeReg_errcode]
      exact .inl ⟨herr, rfl⟩
    | _ => exact .inl ⟨herr, rfl⟩
  · have hack := hinv.busyErr hb herr
    obtain ⟨hclear, hcode⟩ := cleared_of_completeSpan hack hc
    exact .inr ⟨hclear, hcode, .inr (.inr ⟨hb, (acknowledges_iff _).1 hack, .inl hh⟩)⟩
  · exact .inl ⟨herr, rfl⟩

end Sys2Proof.Proofs
end

section
/-! The walks of HUF.RTABLE, BIT.PACK and BIT.UNPACK as the statements write them out (43_huffman.md R157, 44_bitpack.md
R170 to R172): each raises the error that the model's reader, packer or decoder raises. -/

namespace Sys2Proof.Machine

open Sys2Proof.Spec

/-- The error that a walk of the model raises, if it raises one. -/
def raised {ε α β : Type} (codes : ε → β) : Except ε α → Option β
  | .error e => some (codes e)
  | .ok _ => none

@[simp] theorem raised_error {ε α β : Type} (codes : ε → β) (e : ε) :
    raised codes (.error e : Except ε α) = some (codes e) := rfl

@[simp] theorem raised_ok {ε α β : Type} (codes : ε → β) (a : α) : raised codes (.ok a : Except ε α) = none := rfl

theorem raised_eq_none_iff {ε α β : Type} {codes : ε → β} {r : Except ε α} : raised codes r = none ↔ ∃ a, r = .ok a := by
  cases r <;> simp

theorem raised_eq_some_iff {ε α β : Type} {codes : ε → β} {r : Except ε α} {b : β} :
    raised codes r = some b ↔ ∃ e, r = .error e ∧ codes e = b := by
  cases r <;> simp

theorem raised_comp {ε α β γ : Type} (f : β → γ) (codes : ε → β) (r : Except ε α) :
    raised (fun e => f (codes e)) r = (raised codes r).map f := by
  cases r <;> rfl

theorem toNat_eq_zero_iff {n : Nat} {x : BitVec n} : x.toNat = 0 ↔ x = 0 := by
  simpa [Nat.pos_iff_ne_zero] using (toNat_pos_iff (x := x)).not

/-! ### Packing (R170) -/

/-- The packer raises the error of the statements, whatever bits are packed so far. -/
theorem raised_packBits (s : State) (S : List Byte) (bits : List Bool) :
    raised CmdError.codes (packBits s s.dstCap.toNat S bits) = packError s bits.length S := by
  induction S generalizing bits with
  | nil => rfl
  | cons v S ih =>
    rw [packError, bytesOfBits_eq_bytesFor]
    by_cases hv : s.len.get v = 0
    · rw [packBits_of_uncoded hv, raised_error, if_pos (toNat_eq_zero_iff.2 hv)]
      rfl
    · rw [if_neg (toNat_eq_zero_iff.not.2 hv)]
      have hlen : (bits ++ bitsOfCode s v).length = bits.length + (s.len.get v).toNat := by simp
      by_cases hcap : s.dstCap.toNat < bytesFor (bits.length + (s.len.get v).toNat)
      · rw [packBits_of_overflow hv (hlen ▸ hcap), if_pos hcap]
        rfl
      · have hone : packBits s s.dstCap.toNat (v :: S) bits
            = packBits s s.dstCap.toNat S (bits ++ bitsOfCode s v) := (if_neg hv).trans (if_neg (hlen ▸ hcap))
        rw [hone, ih, hlen, if_neg hcap]

/-! ### Decoding (R171, R172) -/

/-- The search for a code finds a byte value exactly when one has that code. -/
theorem exists_codeLookup_iff (s : State) (l c : Nat) :
    (∃ v, codeLookup (codeList s) (l + 1) c = some v)
      ↔ ∃ v, (s.len.get v).toNat = l + 1 ∧ (s.code.get v).toNat = c := by
  rw [← Option.isSome_iff_exists, codeLookup_codeList, List.find?_isSome]
  simp only [mem_coded, Bool.and_eq_true, beq_iff_eq]
  refine exists_congr fun v => and_iff_right_of_imp fun ⟨hlen, _⟩ hzero => ?_
  simp [hzero] at hlen

/-- `DecodeOne` of the statements leaves the bits, or raises the detail, of the model's. -/
theorem decodeStep_eq (s : State) (l c : Nat) (bits : List Bool) :
    decodeStep s l c bits
      = ((decodeOne (codeList s) s.maxlen.toNat l c bits).mapError BitVec.toNat).map Prod.snd := by
  induction bits generalizing l c with
  | nil => rfl
  | cons b bits ih =>
    rw [decodeStep, decodeOne]
    cases hfind : codeLookup (codeList s) (l + 1) (2 * c + b.toNat) with
    | some v =>
      rw [if_pos ((exists_codeLookup_iff s l _).1 ⟨v, hfind⟩)]
      rfl
    | none =>
      rw [if_neg fun h => by simpa [hfind] using (exists_codeLookup_iff s l _).2 h, ih]
      split <;> rfl

/-- The decoding of the statements raises the detail that the model's raises. -/
theorem raised_decodeMany (s : State) (n : Nat) (bits : List Bool) :
    raised BitVec.toNat (decodeMany (codeList s) s.maxlen.toNat n bits) = unpackError s n bits := by
  induction n generalizing bits with
  | zero => rfl
  | succ n ih =>
    rw [unpackError, decodeStep_eq, decodeMany]
    cases decodeOne (codeList s) s.maxlen.toNat 0 0 bits with
    | error d => rfl
    | ok r =>
      obtain ⟨v, rest⟩ := r
      refine Eq.trans ?_ (ih rest)
      dsimp only
      cases decodeMany (codeList s) s.maxlen.toNat n rest <;> rfl

/-! ### The serialized table (R157) -/

/-- The first `k` pairs of a byte sequence, as the statements read them. -/
def leadingPairs (k : Nat) (B : List Byte) : List (Byte × Byte) :=
  (List.range k).map fun j => (B.getD (2 * j) 0, B.getD (2 * j + 1) 0)

@[simp] theorem length_leadingPairs (k : Nat) (B : List Byte) : (leadingPairs k B).length = k := by
  simp [leadingPairs]

theorem leadingPairs_succ (k : Nat) (v l : Byte) (B : List Byte) :
    leadingPairs (k + 1) (v :: l :: B) = (v, l) :: leadingPairs k B := by
  simp [leadingPairs, List.range_succ_eq_map, Function.comp_def, Nat.mul_succ]

/-- The reader raises the detail of the first bad pair. -/
theorem raised_readPairs {k least : Nat} {B : List Byte} (h : 2 * k ≤ B.length) :
    raised BitVec.toNat (readPairs k least B) = pairError least (leadingPairs k B) := by
  induction k generalizing least B with
  | zero => rfl
  | succ k ih =>
    match B, h with
    | v :: l :: B, h =>
      rw [leadingPairs_succ, readPairs, pairError]
      by_cases hleast : v.toNat < least
      · rw [if_pos hleast, if_pos hleast]
        rfl
      by_cases hzero : l = 0
      · rw [if_neg hleast, if_neg hleast, if_pos hzero, if_pos (toNat_eq_zero_iff.2 hzero)]
        rfl
      rw [if_neg hleast, if_neg hleast, if_neg hzero, if_neg (toNat_eq_zero_iff.not.2 hzero)]
      by_cases hlong : 64 < l.toNat
      · rw [if_pos hlong, maxCodeLen, if_pos hlong]
        rfl
      rw [if_neg hlong, maxCodeLen, if_neg hlong, ← ih (by simpa [Nat.mul_succ] using h)]
      cases readPairs k (v.toNat + 1) B <;> rfl

/-- The pairs that the reader accepts are the leading ones. -/
theorem eq_leadingPairs_of_readPairs {k least : Nat} {B : List Byte} {ps : List (Byte × Byte)}
    (h : readPairs k least B = .ok ps) : ps = leadingPairs k B := by
  induction k generalizing least B ps with
  | zero =>
    cases h
    rfl
  | succ k ih =>
    match B, h with
    | v :: l :: B, h =>
      simp only [readPairs] at h
      split at h
      · cases h
      split at h
      · cases h
      split at h
      · cases h
      split at h
      · cases h
      next qs hqs =>
      cases h
      rw [leadingPairs_succ, ih hqs]

/-- The check on the lengths of a whole table raises the detail of the statements: a lone length, or two and more. -/
theorem map_kraftError_leadingPairs (k : Nat) (B : List Byte) :
    (kraftError ((leadingPairs (k + 1) B).map fun p => p.2.toNat)).map BitVec.toNat
      = if k + 1 = 1 then (if (B.getD 1 0).toNat = 1 then none else some 5)
        else if 2 ^ 64 < ((leadingPairs (k + 1) B).map fun p => 2 ^ (64 - p.2.toNat)).sum then some 6
        else if ((leadingPairs (k + 1) B).map fun p => 2 ^ (64 - p.2.toNat)).sum < 2 ^ 64 then some 7
        else none := by
  cases k with
  | zero =>
    have hlone : (leadingPairs (0 + 1) B).map (fun p => p.2.toNat) = [(B.getD 1 0).toNat] := rfl
    rw [hlone, kraftError_singleton, if_pos rfl]
    by_cases hone : (B.getD 1 0).toNat = 1
    · rw [if_pos hone, if_neg (not_not.2 hone)]
      rfl
    · rw [if_neg hone, if_pos hone]
      rfl
  | succ k =>
    have htwo : ¬ k + 1 + 1 = 1 := by omega
    rw [kraftError_of_two_le (by simp), kraftSum_map, if_neg htwo, apply_ite (Option.map BitVec.toNat),
      apply_ite (Option.map BitVec.toNat)]
    rfl

/-- The pairs of the statements, read from the whole sequence, stand after its first byte. -/
theorem map_range_getD_cons (k : Nat) (b : Byte) (B : List Byte) :
    ((List.range k).map fun j => ((b :: B).getD (1 + 2 * j) 0, (b :: B).getD (2 + 2 * j) 0)) = leadingPairs k B := by
  refine List.map_congr_left fun j _ => ?_
  rw [Nat.add_comm 1, Nat.add_comm 2]
  rfl

/-- `ReadCLT` raises the detail of the statements. -/
theorem raised_readClt (B : List Byte) : raised BitVec.toNat (readClt B) = cltError B := by
  match B with
  | [] => rfl
  | b :: rest =>
    simp only [cltError, map_range_getD_cons, List.getD_cons_zero, List.length_cons]
    by_cases hshort : rest.length < 2 * (b.toNat + 1)
    · rw [readClt, if_pos hshort, if_pos (by omega)]
      rfl
    rw [if_neg (by omega), ← raised_readPairs (not_lt.1 hshort)]
    cases hread : readPairs (b.toNat + 1) 0 rest with
    | error d =>
      rw [readClt_of_readPairs_error (not_lt.1 hshort) hread]
      rfl
    | ok ps =>
      rw [readClt_of_readPairs_ok (not_lt.1 hshort) hread, eq_leadingPairs_of_readPairs hread]
      refine Eq.trans ?_ (map_kraftError_leadingPairs b.toNat rest)
      cases kraftError ((leadingPairs (b.toNat + 1) rest).map fun p => p.2.toNat) <;> rfl

end Sys2Proof.Machine
end

section
/-! What each command ends in by the error of the statements (60_exceptions.md R203, R210, R211): the commands whose error
the walks decide, and then all sixteen. -/

namespace Sys2Proof.Machine

open Sys2Proof.Spec

/-! ### The commands whose error a walk decides -/

/-- The range checks come before the check `rest`. -/
theorem rangeError_eq_or (s : State) (rest : Option (Nat × Nat)) : rangeError s rest = (rangeError s none).or rest := by
  unfold rangeError
  split
  · rfl
  split
  · rfl
  split <;> rfl

/-- HUF.BUILD has no error: no frequencies give a length above 64 (43_huffman.md R158). -/
theorem commandError_hufBuild (s : State) : commandError s .hufBuild = none := by
  refine if_neg fun ⟨v, hv⟩ => ?_
  rw [← get_huffLengths_eq_huffLength] at hv
  have hle := huffLengths_le s.freq v
  omega

/-- The source range of HUF.RTABLE is checked, then the table that stands there (43_huffman.md R153). -/
theorem commandError_hufRtable (s : State) :
    commandError s .hufRtable
      = if ¬ InBuf s.params s.srcAddr s.srcLen then some (8, 1)
        else raised (fun d => (5, d.toNat)) (readClt (srcBytes s)) := by
  rw [commandError, ← raised_readClt, raised_comp (fun d => (5, d))]

/-- The checks of BIT.PACK come before its packing (44_bitpack.md R170). -/
theorem commandError_bitPack (s : State) :
    commandError s .bitPack
      = ((firstError (bitPackChecks s)).map CmdError.codes).or
          (raised CmdError.codes (packBits s s.dstCap.toNat (srcBytes s) [])) := by
  rw [codes_bitPackChecks, raised_packBits, commandError, rangeError_eq_or]
  split <;> rfl

/-- The checks of BIT.UNPACK come before its decoding (44_bitpack.md R171). -/
theorem commandError_bitUnpack (s : State) :
    commandError s .bitUnpack
      = ((firstError (bitUnpackChecks s)).map CmdError.codes).or
          (raised (fun d => (6, d.toNat))
            (decodeMany (codeList s) s.maxlen.toNat s.aux.toNat (streamBits (srcBytes s)))) := by
  rw [codes_bitUnpackChecks, raised_comp (fun d => (6, d)), raised_decodeMany, commandError]
  simp only [rangeError_eq_or s (ite _ _ _), toNat_eq_zero_iff (x := s.nsym)]
  split
  · rfl
  rw [Option.or_assoc]
  congr 1
  split
  · rfl
  by_cases haux : s.aux.toNat = 0
  · rw [if_pos haux, if_neg fun h => h.1 haux, haux]
    rfl
  · rw [if_neg haux]
    by_cases hnsym : s.nsym = 0
    · rw [if_pos hnsym, if_pos ⟨haux, hnsym⟩]
      rfl
    · rw [if_neg hnsym, if_neg fun h => hnsym h.2]
      rfl

/-! ### The error completions -/

/-- The whole effect of an error of class `c` and detail `d` of the command `i` (60_exceptions.md R210, R211). -/
def ErrorCompletion (i : Instr) (s : State) (c d : Nat) : Prop :=
  ∃ t, exec i s = .next t
    ∧ (if i = .hufRtable ∧ c = 5 then
        t = errorState (opcode i).toNat c d { s with len := Table.fill 0, code := Table.fill 0, nsym := 0, maxlen := 0 }
      else if i = .bitPack ∧ (c = 10 ∨ c = 11) then
        t = errorState (opcode i).toNat c d { s with buf := t.buf, fresh := t.fresh }
          ∧ ∀ a, a < s.dstAddr.toNat ∨ s.dstAddr.toNat + s.dstCap.toNat ≤ a → readBuf t a = readBuf s a
      else t = errorState (opcode i).toNat c d s)

section
variable {i : Instr} {s : State} {c d : Nat}

/-- An error other than the two of R211 changes nothing beyond the error record. -/
theorem errorCompletion_of_errorState (h : exec i s = .next (errorState (opcode i).toNat c d s))
    (hread : ¬ (i = .hufRtable ∧ c = 5)) (hpack : ¬ (i = .bitPack ∧ (c = 10 ∨ c = 11))) : ErrorCompletion i s c d :=
  ⟨_, h, by rw [if_neg hread, if_neg hpack]⟩

/-- Every error completion records its codes and ends the command (60_exceptions.md R210). -/
theorem ErrorCompletion.recorded (h : ErrorCompletion i s c d) :
    ∃ t, exec i s = .next t ∧ t.errcode = BitVec.ofNat 32 (c + d * 0x100 + (opcode i).toNat * 0x10000)
      ∧ t.status = ⟨false, false, true, false, s.status.wbusy⟩ := by
  obtain ⟨t, ht, heffect⟩ := h
  refine ⟨t, ht, ?_⟩
  split at heffect
  · rw [heffect]
    exact ⟨rfl, rfl⟩
  split at heffect
  · obtain ⟨hstate, -⟩ := heffect
    rw [hstate]
    exact ⟨rfl, rfl⟩
  · rw [heffect]
    exact ⟨rfl, rfl⟩

end

theorem exec_hufRtable_of_not_inBuf {s : State} (h : ¬ InBuf s.params s.srcAddr s.srcLen) :
    exec .hufRtable s = .next (errorState 0x33 8 1 s) := by
  have hrun : exec .hufRtable s = .next (raiseError (opcode .hufRtable) ⟨.bounds, 1⟩ s) := by
    dsimp only [exec, execHufRtable]
    rw [firstError_checkSrc_of_not_inBuf h]
  exact hrun.trans (congrArg _ (raiseError_eq_errorState ..))

theorem exec_bitUnpack_of_check {s : State} {e : CmdError} (hchecks : firstError (bitUnpackChecks s) = some e) :
    exec .bitUnpack s = .next (raiseError (opcode .bitUnpack) e s) := by
  rw [bitUnpackChecks] at hchecks
  simp only [exec, execBitUnpack, hchecks]

/-- The checks of BIT.PACK raise neither of the errors that packing raises. -/
theorem class_of_bitPackChecks {s : State} {e : CmdError} {c d : Nat} (h : firstError (bitPackChecks s) = some e)
    (hcodes : e.codes = (c, d)) : ¬ (c = 10 ∨ c = 11) := by
  have hchecks := codes_bitPackChecks s
  rw [h, Option.map_some, hcodes, rangeError] at hchecks
  split_ifs at hchecks <;> cases hchecks <;> decide

/-- Packing raises the two errors of R211 alone. -/
theorem class_of_packBits {s : State} {cap : Nat} {S : List Byte} {bits : List Bool} {e : CmdError}
    (h : packBits s cap S bits = .error e) : e.cls = .uncodedSymbol ∨ e.cls = .dstOverflow := by
  induction S generalizing bits with
  | nil => cases h
  | cons v S ih =>
    rw [packBits] at h
    split at h
    · cases h
      exact .inl rfl
    dsimp only at h
    split at h
    · cases h
      exact .inr rfl
    · exact ih h

theorem errorCompletion_hufRtable {s : State} {c d : Nat} (h : commandError s .hufRtable = some (c, d)) :
    ErrorCompletion .hufRtable s c d := by
  rw [commandError_hufRtable] at h
  split at h
  next hsrc =>
    cases h
    exact errorCompletion_of_errorState (exec_hufRtable_of_not_inBuf hsrc) (by simp) (by simp)
  next hsrc =>
    obtain ⟨e, hread, hcodes⟩ := raised_eq_some_iff.1 h
    cases hcodes
    refine ⟨_, exec_hufRtable_of_error (not_not.1 hsrc) hread, ?_⟩
    rw [if_pos ⟨rfl, rfl⟩]
    rfl

theorem errorCompletion_bitPack {s : State} {c d : Nat} (h : commandError s .bitPack = some (c, d)) :
    ErrorCompletion .bitPack s c d := by
  rw [commandError_bitPack] at h
  cases hchecks : firstError (bitPackChecks s) with
  | some e =>
    rw [hchecks] at h
    have hcodes : e.codes = (c, d) := Option.some.inj h
    have hrun := exec_bitPack_of_check hchecks
    rw [raiseError_of_codes hcodes] at hrun
    exact errorCompletion_of_errorState hrun (by simp) fun hclass => class_of_bitPackChecks hchecks hcodes hclass.2
  | none =>
    rw [hchecks, Option.map_none, Option.none_or] at h
    obtain ⟨e, hpack, hcodes⟩ := raised_eq_some_iff.1 h
    have hclass : c = 10 ∨ c = 11 := by
      rw [← (Prod.mk.inj hcodes).1]
      rcases class_of_packBits hpack with hcls | hcls <;> simp [hcls, ErrClass.code]
    refine ⟨_, exec_bitPack_of_error hchecks hpack, ?_⟩
    rw [if_neg (by simp), if_pos ⟨rfl, hclass⟩]
    exact bitPackFailed_spec hcodes

theorem exec_bitUnpack_of_some {s : State} {c d : Nat} (h : commandError s .bitUnpack = some (c, d)) :
    exec .bitUnpack s = .next (errorState 0x41 c d s) := by
  rw [commandError_bitUnpack] at h
  cases hchecks : firstError (bitUnpackChecks s) with
  | some e =>
    rw [hchecks] at h
    rw [exec_bitUnpack_of_check hchecks, raiseError_of_codes (Option.some.inj h)]
    rfl
  | none =>
    rw [hchecks, Option.map_none, Option.none_or] at h
    obtain ⟨e, hdecode, hcodes⟩ := raised_eq_some_iff.1 h
    cases hcodes
    exact exec_bitUnpack_of_error hchecks hdecode

/-- Every failing command ends in the error completion of its codes. -/
theorem errorCompletion_of_some {i : Instr} {s : State} {c d : Nat} (h : commandError s i = some (c, d)) :
    ErrorCompletion i s c d := by
  have hplain (hi : i ≠ .hufRtable ∧ i ≠ .bitPack) (hrun : exec i s = .next (errorState (opcode i).toNat c d s)) :
      ErrorCompletion i s c d :=
    errorCompletion_of_errorState hrun (fun hread => hi.1 hread.1) fun hpack => hi.2 hpack.1
  cases i with
  | nop | errClear | sreset | crcInit => cases h
  | crcUpdate =>
    rw [commandError] at h
    split at h
    next hsrc =>
      cases h
      exact hplain (by simp) (exec_crcUpdate_of_not_inBuf hsrc)
    next => cases h
  | bwtFwd => exact hplain (by simp) (exec_bwtFwd_of_some h)
  | bwtInv => exact hplain (by simp) (exec_bwtInv_of_some h)
  | hufCount => exact hplain (by simp) (exec_hufCount_of_some h)
  | hufBuild => cases (commandError_hufBuild s).symm.trans h
  | hufWtable => exact hplain (by simp) (exec_hufWtable_of_some h)
  | hufRtable => exact errorCompletion_hufRtable h
  | bitPack => exact errorCompletion_bitPack h
  | bitUnpack => exact hplain (by simp) (exec_bitUnpack_of_some h)
  | ctrFrame f => exact hplain (by simp) (exec_ctrFrame_of_some h)
  | ctrUnframe => exact hplain (by simp) (exec_ctrUnframe_of_some h)
  | ctrRepl => exact hplain (by simp) (exec_ctrRepl_of_some h)

/-! ### The successful completions -/

/-- A command succeeds: it ends with BUSY 0 and DONE 1 (40_control.md R124). -/
def Succeeds (i : Instr) (s : State) : Prop := ∃ t, exec i s = .next t ∧ t.status.busy = false ∧ t.status.done = true

theorem succeeds_crcUpdate {s : State} (h : commandError s .crcUpdate = none) : Succeeds .crcUpdate s := by
  rw [commandError] at h
  split at h
  · cases h
  next hsrc => exact ⟨_, exec_crcUpdate_of_inBuf (not_not.1 hsrc), rfl, rfl⟩

theorem succeeds_hufWtable {s : State} (h : commandError s .hufWtable = none) : Succeeds .hufWtable s := by
  refine ⟨_, exec_hufWtable_of_none h, ?_⟩
  rw [hufWritten]
  split <;> exact ⟨rfl, rfl⟩

theorem succeeds_hufRtable {s : State} (h : commandError s .hufRtable = none) : Succeeds .hufRtable s := by
  rw [commandError_hufRtable] at h
  split at h
  · cases h
  next hsrc =>
    obtain ⟨⟨lens, K⟩, hread⟩ := raised_eq_none_iff.1 h
    exact ⟨_, exec_hufRtable_of_ok (not_not.1 hsrc) hread, rfl, rfl⟩

theorem succeeds_bitPack {s : State} (h : commandError s .bitPack = none) : Succeeds .bitPack s := by
  rw [commandError_bitPack, Option.or_eq_none_iff, Option.map_eq_none_iff] at h
  obtain ⟨hchecks, hpack⟩ := h
  obtain ⟨bits, hbits⟩ := raised_eq_none_iff.1 hpack
  exact ⟨_, exec_bitPack_of_ok hchecks hbits, rfl, rfl⟩

theorem succeeds_bitUnpack {s : State} (h : commandError s .bitUnpack = none) : Succeeds .bitUnpack s := by
  rw [commandError_bitUnpack, Option.or_eq_none_iff, Option.map_eq_none_iff] at h
  obtain ⟨hchecks, hdecode⟩ := h
  obtain ⟨⟨out, left⟩, hmany⟩ := raised_eq_none_iff.1 hdecode
  exact ⟨_, exec_bitUnpack_of_ok hchecks hmany, rfl, rfl⟩

/-- Every command for which no check fails succeeds. -/
theorem succeeds_of_none {i : Instr} {s : State} (h : commandError s i = none) : Succeeds i s := by
  cases i with
  | nop | errClear | sreset | crcInit => exact ⟨_, rfl, rfl, rfl⟩
  | crcUpdate => exact succeeds_crcUpdate h
  | bwtFwd => exact ⟨_, exec_bwtFwd_of_none h, rfl, rfl⟩
  | bwtInv => exact ⟨_, exec_bwtInv_of_none h, rfl, rfl⟩
  | hufCount => exact ⟨_, exec_hufCount_of_none h, rfl, rfl⟩
  | hufBuild => exact ⟨_, exec_hufBuild s, rfl, rfl⟩
  | hufWtable => exact succeeds_hufWtable h
  | hufRtable => exact succeeds_hufRtable h
  | bitPack => exact succeeds_bitPack h
  | bitUnpack => exact succeeds_bitUnpack h
  | ctrFrame f => exact ⟨_, exec_ctrFrame_of_none h, rfl, rfl⟩
  | ctrUnframe => exact ⟨_, exec_ctrUnframe_of_none h, rfl, rfl⟩
  | ctrRepl => exact ⟨_, exec_ctrRepl_of_none h, rfl, rfl⟩

end Sys2Proof.Machine
end

section
/-! The first failing check and the error completion (60_exceptions.md R203, R210, R211). -/

namespace Sys2Proof.Proofs

open Sys2Proof.Machine Sys2Proof.Spec

/-- Settles O53: only the reader of HUF.RTABLE and the packing of BIT.PACK raise their error from a changed state. -/
theorem errorCompletionRule : Obligations.ErrorCompletionRule :=
  fun _ _ _ _ => errorCompletion_of_some

/-- Settles O52: the codes of the first failing check are those that the error completion records. -/
theorem firstFailingCheckDecides : Obligations.FirstFailingCheckDecides := by
  intro i s
  cases h : commandError s i with
  | none => exact succeeds_of_none h
  | some e =>
    obtain ⟨c, d⟩ := e
    exact (errorCompletion_of_some h).recorded

end Sys2Proof.Proofs
end

section
/-! The state after a hardware reset (70_reset_and_hazards.md R230, R231). -/

namespace Sys2Proof.Machine

open Sys2Proof.Spec

/-- The reset input is served in every state, so a running command is abandoned (70_reset_and_hazards.md R230). -/
theorem step_hwReset {s : State} {rest : List HostEvent} (h : s.host = .hwReset :: rest) :
    step s = .next (hardwareReset { s with host := rest }) := step_of_host h

/-- A hardware reset is the reset of the registers in a state whose BUF is unspecified again, and no register depends on
BUF. -/
theorem readReg_hardwareReset (s : State) (r : Reg) : readReg (hardwareReset s) r = resetColumn s.params r :=
  readReg_resetRegisters { s with buf := [], bufEpoch := s.fresh, fresh := s.fresh + 1 } r

end Sys2Proof.Machine
end

section
/-! Hardware reset and SRESET (70_reset_and_hazards.md R230 to R232). -/

namespace Sys2Proof.Proofs

open Sys2Proof.Machine Sys2Proof.Spec

/-- Settles O1. -/
theorem hardwareResetRestoresRegisters : Obligations.HardwareResetRestoresRegisters := fun s rest h =>
  ⟨hardwareReset { s with host := rest }, step_hwReset h, readReg_hardwareReset { s with host := rest },
    hardwareReset_status _, hardwareReset_params _, hardwareReset_host _, Memory.lookup_nil⟩

/-- Settles O3: both resets put every register at its reset column (O1, O25), but for the CMD and STATUS of SRESET, which
completes as a command. -/
theorem sresetMatchesHardwareReset : Obligations.SresetMatchesHardwareReset := by
  intro s t u rest ht hu
  obtain ⟨t', ht', hsreset, -⟩ := sresetRule s
  obtain ⟨u', hu', hreset, -⟩ := hardwareResetRestoresRegisters { s with host := .hwReset :: rest } rest rfl
  obtain rfl : t' = t := by simpa [ht] using ht'.symm
  obtain rfl : u' = u := by simpa [hu] using hu'.symm
  refine ⟨fun r hs hc => ?_, hreset .status, hsreset .status, hreset .cmd, hsreset .cmd⟩
  calc readReg t' r
      = resetColumn s.params r := by rw [hsreset, if_neg (not_or.2 ⟨hc, hs⟩)]
    _ = readReg u' r := (hreset r).symm

end Sys2Proof.Proofs
end
